-- ==== Sys2Proof/Word.lean ====
section
/-! DEFINITION. The words and bytes of FPCODEC, and the names of its eight container registers. -/

namespace Sys2Proof

/-- A command word and every host-visible register are 32 bits wide (R11, R72). -/
abbrev Word := BitVec 32

/-- A byte of the text buffers (R41, R42); characters are ASCII bytes (R14). -/
abbrev Byte := BitVec 8

/-- The container registers c0 to c7 (R7). All eight are interchangeable (R32). -/
inductive CReg where
  | c0 | c1 | c2 | c3 | c4 | c5 | c6 | c7
  deriving DecidableEq, Repr

end Sys2Proof
end

