-- ==== Sys2Proof/Syntax.lean ====
section
/-! DEFINITION. The commands of FPCODEC: one constructor per row of the opcode map (R114, spec/opcode_table.json). -/

namespace Sys2Proof

/-- A command with its operands (R102, R120). `cd` is the destination register, `ca` and `cb` the source registers (`ca` the
high part of CONCAT); `n`, `lo`, `hi` are 9-bit sizes, positions or range ends, `idx` a 4-bit ROM index, `ew` and `mw` 9-bit
layout widths; the one-bit fields P, S, SIG and SW are Booleans. -/
inductive Instr where
  /-- ALL0 cd, n (R143). -/
  | all0 (cd : CReg) (n : Nat)
  /-- ALL1 cd, n (R144). -/
  | all1 (cd : CReg) (n : Nat)
  /-- FROMU.8 cd, n (R145). -/
  | fromu8 (cd : CReg) (n : Nat)
  /-- FROMU.16 cd, n (R145). -/
  | fromu16 (cd : CReg) (n : Nat)
  /-- FROMU.32 cd, n (R145). -/
  | fromu32 (cd : CReg) (n : Nat)
  /-- FROMU.64 cd, n (R145). -/
  | fromu64 (cd : CReg) (n : Nat)
  /-- FROMU.128 cd, n (R145). -/
  | fromu128 (cd : CReg) (n : Nat)
  /-- GET ca, n (R146). -/
  | get (ca : CReg) (n : Nat)
  /-- SET cd, n, p (R147). -/
  | set (cd : CReg) (n : Nat) (p : Bool)
  /-- CONCAT cd, ca, cb (R148). -/
  | concat (cd ca cb : CReg)
  /-- RESIZE.LO cd, ca, n (R149). -/
  | resizeLo (cd ca : CReg) (n : Nat)
  /-- RESIZE.HI cd, ca, n (R150). -/
  | resizeHi (cd ca : CReg) (n : Nat)
  /-- GETSUB cd, ca, lo, hi (R151). -/
  | getsub (cd ca : CReg) (lo hi : Nat)
  /-- RANGE0 ca, lo, hi (R152). -/
  | range0 (ca : CReg) (lo hi : Nat)
  /-- RANGE1 ca, lo, hi (R153). -/
  | range1 (ca : CReg) (lo hi : Nat)
  /-- PARSE cd (R154). -/
  | parse (cd : CReg)
  /-- PARSE.N cd, n (R155). -/
  | parseN (cd : CReg) (n : Nat)
  /-- RENDER ca (R156). -/
  | render (ca : CReg)
  /-- LSEL idx (R209). -/
  | lsel (idx : Nat)
  /-- LSET sw, ew, mw (R210). -/
  | lset (sw : Bool) (ew mw : Nat)
  /-- CONSTRUCT.ZERO cd, s (R238). -/
  | constructZero (cd : CReg) (sgn : Bool)
  /-- CONSTRUCT.INF cd, s (R238). -/
  | constructInf (cd : CReg) (sgn : Bool)
  /-- CONSTRUCT.NAN cd, sig, ca (R238). -/
  | constructNan (cd : CReg) (sig : Bool) (ca : CReg)
  /-- CONSTRUCT.SPSUB cd (R238). -/
  | constructSpsub (cd : CReg)
  /-- CONSTRUCT.LSUB cd (R238). -/
  | constructLsub (cd : CReg)
  /-- CONSTRUCT.SPNORM cd (R238). -/
  | constructSpnorm (cd : CReg)
  /-- CONSTRUCT.LNORM cd (R238). -/
  | constructLnorm (cd : CReg)
  /-- CONSTRUCT.LLT1 cd (R238). -/
  | constructLlt1 (cd : CReg)
  /-- CONSTRUCT.ONE cd (R238). -/
  | constructOne (cd : CReg)
  /-- CONSTRUCT.SGT1 cd (R238). -/
  | constructSgt1 (cd : CReg)
  /-- CLASSIFY cd, ca (R242). -/
  | classify (cd ca : CReg)
  /-- ENCODE cd (R271). -/
  | encode (cd : CReg)
  /-- DECODE (R311). -/
  | decode
  deriving DecidableEq, Repr

end Sys2Proof
end

