-- ==== Sys2Proof/WellFormed.lean ====
section
/-! DEFINITION. Which terms of `Instr` a command word can hold: every immediate fits its field (R102, R111). -/

namespace Sys2Proof

/-- N, LO, HI, EW and MW are unsigned 9-bit fields: 0..511 (R102). -/
abbrev fitsImm9 (v : Nat) : Bool := decide (v < 512)

/-- IDX is an unsigned 4-bit field: 0..15 (R102). -/
abbrev fitsIdx (v : Nat) : Bool := decide (v < 16)

/-- A term is well formed when each of its immediates fits its field. Values above 256 are encodable (R111, R117). -/
def Instr.wellFormed : Instr → Bool
  | .all0 _ n | .all1 _ n => fitsImm9 n
  | .fromu8 _ n | .fromu16 _ n | .fromu32 _ n | .fromu64 _ n | .fromu128 _ n => fitsImm9 n
  | .get _ n | .set _ n _ => fitsImm9 n
  | .concat _ _ _ => true
  | .resizeLo _ _ n | .resizeHi _ _ n => fitsImm9 n
  | .getsub _ _ lo hi | .range0 _ lo hi | .range1 _ lo hi => fitsImm9 lo && fitsImm9 hi
  | .parse _ => true
  | .parseN _ n => fitsImm9 n
  | .render _ => true
  | .lsel idx => fitsIdx idx
  | .lset _ ew mw => fitsImm9 ew && fitsImm9 mw
  | .constructZero _ _ | .constructInf _ _ | .constructNan _ _ _ => true
  | .constructSpsub _ | .constructLsub _ | .constructSpnorm _ | .constructLnorm _ => true
  | .constructLlt1 _ | .constructOne _ | .constructSgt1 _ => true
  | .classify _ _ | .encode _ | .decode => true

end Sys2Proof
end

