-- ==== Sys2Proof/Decode.lean ====
section
/-! DEFINITION. The command decoder (R119: the opcode map of R114, row by row), its inverse the encoder, and the host's
entry point `decodeTableWord`. Every command is exactly one 32-bit word (R101, R118). -/

namespace Sys2Proof

/-- Why a word is illegal (R115). Both kinds execute as `raise Error(ILLEGAL)` (R116). -/
inductive DecodeError where
  /-- Bits 7:0 hold an unassigned opcode value (R115). -/
  | unassignedOpcode
  /-- The opcode value is assigned, but a must-be-zero bit is 1 or a selector (T, LM, P) has no row (R115). -/
  | reservedEncoding
  deriving DecidableEq, Repr

/-- The bits lo+len-1 down to lo of a command word, as an unsigned number (R13, R111). -/
def wordField (w : Word) (lo len : Nat) : Nat := (w.extractLsb' lo len).toNat

/-- Bit i of a command word (R13). -/
def wordFlag (w : Word) (i : Nat) : Bool := w.getLsbD i

/-- The container register a 3-bit register field names (R110). -/
def CReg.ofField : Nat → CReg
  | 0 => .c0 | 1 => .c1 | 2 => .c2 | 3 => .c3 | 4 => .c4 | 5 => .c5 | 6 => .c6 | _ => .c7

/-- The 3-bit register field that names a container register (R110). -/
def CReg.toField : CReg → Nat
  | .c0 => 0 | .c1 => 1 | .c2 => 2 | .c3 => 3 | .c4 => 4 | .c5 => 5 | .c6 => 6 | .c7 => 7

/-- CD = w[10:8] (R103 to R106, R109). -/
def fieldCD (w : Word) : CReg := CReg.ofField (wordField w 8 3)

/-- CA = w[13:11] (R103 to R105, R109). -/
def fieldCA (w : Word) : CReg := CReg.ofField (wordField w 11 3)

/-- CB = w[16:14] (R103). -/
def fieldCB (w : Word) : CReg := CReg.ofField (wordField w 14 3)

/-- N = w[22:14] (R104, R106, R111). -/
def fieldN (w : Word) : Nat := wordField w 14 9

/-- P = w[23] (R104). -/
def fieldP (w : Word) : Bool := wordFlag w 23

/-- LO = w[22:14] (R105, R111). -/
def fieldLO (w : Word) : Nat := wordField w 14 9

/-- HI = w[31:23] (R105, R111). -/
def fieldHI (w : Word) : Nat := wordField w 23 9

/-- IDX = w[11:8] (R107, R111). -/
def fieldIDX (w : Word) : Nat := wordField w 8 4

/-- SW = w[8] (R108). -/
def fieldSW (w : Word) : Bool := wordFlag w 8

/-- EW = w[17:9] (R108, R111). -/
def fieldEW (w : Word) : Nat := wordField w 9 9

/-- MW = w[26:18] (R108, R111). -/
def fieldMW (w : Word) : Nat := wordField w 18 9

/-- S = w[18] (R109). -/
def fieldS (w : Word) : Bool := wordFlag w 18

/-- SIG = w[19] (R109). -/
def fieldSIG (w : Word) : Bool := wordFlag w 19

/-- One row of the opcode map (R114): a word w is this command when `w & mask = pattern` (the map's "match"). -/
structure OpRow where
  mask    : Word
  pattern : Word
  build   : Word → Instr

/-- The rows of the bit-container commands (R114). -/
def containerRows : List OpRow :=
  [ ⟨0xFF8038FF#32, 0x00000001#32, fun w => .all0 (fieldCD w) (fieldN w)⟩,
    ⟨0xFF8038FF#32, 0x00000002#32, fun w => .all1 (fieldCD w) (fieldN w)⟩,
    ⟨0xFF8038FF#32, 0x00000003#32, fun w => .fromu8 (fieldCD w) (fieldN w)⟩,
    ⟨0xFF8038FF#32, 0x01000003#32, fun w => .fromu16 (fieldCD w) (fieldN w)⟩,
    ⟨0xFF8038FF#32, 0x02000003#32, fun w => .fromu32 (fieldCD w) (fieldN w)⟩,
    ⟨0xFF8038FF#32, 0x03000003#32, fun w => .fromu64 (fieldCD w) (fieldN w)⟩,
    ⟨0xFF8038FF#32, 0x04000003#32, fun w => .fromu128 (fieldCD w) (fieldN w)⟩,
    ⟨0xFF8007FF#32, 0x00000004#32, fun w => .get (fieldCA w) (fieldN w)⟩,
    ⟨0xFF0038FF#32, 0x00000005#32, fun w => .set (fieldCD w) (fieldN w) (fieldP w)⟩,
    ⟨0xFFFE00FF#32, 0x00000006#32, fun w => .concat (fieldCD w) (fieldCA w) (fieldCB w)⟩,
    ⟨0xFF8000FF#32, 0x00000007#32, fun w => .resizeLo (fieldCD w) (fieldCA w) (fieldN w)⟩,
    ⟨0xFF8000FF#32, 0x00800007#32, fun w => .resizeHi (fieldCD w) (fieldCA w) (fieldN w)⟩,
    ⟨0x000000FF#32, 0x00000008#32, fun w => .getsub (fieldCD w) (fieldCA w) (fieldLO w) (fieldHI w)⟩,
    ⟨0x000007FF#32, 0x00000009#32, fun w => .range0 (fieldCA w) (fieldLO w) (fieldHI w)⟩,
    ⟨0x000007FF#32, 0x0000000A#32, fun w => .range1 (fieldCA w) (fieldLO w) (fieldHI w)⟩,
    ⟨0xFFFFF8FF#32, 0x0000000B#32, fun w => .parse (fieldCD w)⟩,
    ⟨0xFF8038FF#32, 0x0080000B#32, fun w => .parseN (fieldCD w) (fieldN w)⟩,
    ⟨0xFFFFC7FF#32, 0x0000000C#32, fun w => .render (fieldCA w)⟩ ]

/-- The rows of the layout commands (R114). -/
def layoutRows : List OpRow :=
  [ ⟨0xFFFFF0FF#32, 0x00000010#32, fun w => .lsel (fieldIDX w)⟩,
    ⟨0xF80000FF#32, 0x00000011#32, fun w => .lset (fieldSW w) (fieldEW w) (fieldMW w)⟩ ]

/-- The rows of the special-value commands (R114). -/
def specialRows : List OpRow :=
  [ ⟨0xFFFBF8FF#32, 0x00000020#32, fun w => .constructZero (fieldCD w) (fieldS w)⟩,
    ⟨0xFFFBF8FF#32, 0x00004020#32, fun w => .constructInf (fieldCD w) (fieldS w)⟩,
    ⟨0xFFF7C0FF#32, 0x00008020#32, fun w => .constructNan (fieldCD w) (fieldSIG w) (fieldCA w)⟩,
    ⟨0xFFFFF8FF#32, 0x0000C020#32, fun w => .constructSpsub (fieldCD w)⟩,
    ⟨0xFFFFF8FF#32, 0x00010020#32, fun w => .constructLsub (fieldCD w)⟩,
    ⟨0xFFFFF8FF#32, 0x00014020#32, fun w => .constructSpnorm (fieldCD w)⟩,
    ⟨0xFFFFF8FF#32, 0x00018020#32, fun w => .constructLnorm (fieldCD w)⟩,
    ⟨0xFFFFF8FF#32, 0x0001C020#32, fun w => .constructLlt1 (fieldCD w)⟩,
    ⟨0xFFFFF8FF#32, 0x00020020#32, fun w => .constructOne (fieldCD w)⟩,
    ⟨0xFFFFF8FF#32, 0x00024020#32, fun w => .constructSgt1 (fieldCD w)⟩,
    ⟨0xFFFFC0FF#32, 0x00000021#32, fun w => .classify (fieldCD w) (fieldCA w)⟩ ]

/-- The rows of the two conversion commands (R114). -/
def codecRows : List OpRow :=
  [ ⟨0xFFFFF8FF#32, 0x00000030#32, fun w => .encode (fieldCD w)⟩,
    ⟨0xFFFFFFFF#32, 0x00000031#32, fun _ => .decode⟩ ]

/-- The opcode map (R114). -/
def opRows : List OpRow := containerRows ++ layoutRows ++ specialRows ++ codecRows

/-- A word matches a row when `w & mask = match` (R114). -/
def OpRow.fits (r : OpRow) (w : Word) : Bool := w &&& r.mask == r.pattern

/-- The assigned values of the opcode field (R115): all but 0x00, 0x0D..0x0F, 0x12..0x1F, 0x22..0x2F and 0x32..0xFF. -/
def assignedOpcode (opc : Nat) : Bool :=
  (0x01 ≤ opc && opc ≤ 0x0C) || (0x10 ≤ opc && opc ≤ 0x11) || (0x20 ≤ opc && opc ≤ 0x21) || (0x30 ≤ opc && opc ≤ 0x31)

/-- The decode function of R119, total on words: the row that matches, or illegal. -/
def decode (w : Word) : Except DecodeError Instr :=
  match opRows.find? (fun r => r.fits w) with
  | some r => .ok (r.build w)
  | none => .error (if assignedOpcode (wordField w 0 8) then .reservedEncoding else .unassignedOpcode)

/-! The encoder. -/

/-- A number placed in a command word with its bit 0 at bit `lo` (R102). -/
def placeField (lo v : Nat) : Word := BitVec.ofNat 32 v <<< lo

/-- A flag placed at bit `lo` of a command word (R102). -/
def placeFlag (lo : Nat) (b : Bool) : Word := placeField lo b.toNat

/-- CD in bits 10:8. -/
def placeCD (r : CReg) : Word := placeField 8 r.toField

/-- CA in bits 13:11. -/
def placeCA (r : CReg) : Word := placeField 11 r.toField

/-- CB in bits 16:14. -/
def placeCB (r : CReg) : Word := placeField 14 r.toField

/-- A CONSTRUCT word with neither S, SIG nor CA: OPC 0x20, LM in bits 17:14 (R109, R113). -/
def constructWord (lm : Nat) (cd : CReg) : Word := 0x20#32 ||| placeField 14 lm ||| placeCD cd

/-- The command word of an instruction (R103 to R109, R112, R113). -/
def encode : Instr → Word
  | .all0 cd n => 0x01#32 ||| placeCD cd ||| placeField 14 n
  | .all1 cd n => 0x02#32 ||| placeCD cd ||| placeField 14 n
  | .fromu8 cd n => 0x03#32 ||| placeField 24 0 ||| placeCD cd ||| placeField 14 n
  | .fromu16 cd n => 0x03#32 ||| placeField 24 1 ||| placeCD cd ||| placeField 14 n
  | .fromu32 cd n => 0x03#32 ||| placeField 24 2 ||| placeCD cd ||| placeField 14 n
  | .fromu64 cd n => 0x03#32 ||| placeField 24 3 ||| placeCD cd ||| placeField 14 n
  | .fromu128 cd n => 0x03#32 ||| placeField 24 4 ||| placeCD cd ||| placeField 14 n
  | .get ca n => 0x04#32 ||| placeCA ca ||| placeField 14 n
  | .set cd n p => 0x05#32 ||| placeCD cd ||| placeField 14 n ||| placeFlag 23 p
  | .concat cd ca cb => 0x06#32 ||| placeCD cd ||| placeCA ca ||| placeCB cb
  | .resizeLo cd ca n => 0x07#32 ||| placeCD cd ||| placeCA ca ||| placeField 14 n
  | .resizeHi cd ca n => 0x07#32 ||| placeFlag 23 true ||| placeCD cd ||| placeCA ca ||| placeField 14 n
  | .getsub cd ca lo hi => 0x08#32 ||| placeCD cd ||| placeCA ca ||| placeField 14 lo ||| placeField 23 hi
  | .range0 ca lo hi => 0x09#32 ||| placeCA ca ||| placeField 14 lo ||| placeField 23 hi
  | .range1 ca lo hi => 0x0A#32 ||| placeCA ca ||| placeField 14 lo ||| placeField 23 hi
  | .parse cd => 0x0B#32 ||| placeCD cd
  | .parseN cd n => 0x0B#32 ||| placeFlag 23 true ||| placeCD cd ||| placeField 14 n
  | .render ca => 0x0C#32 ||| placeCA ca
  | .lsel idx => 0x10#32 ||| placeField 8 idx
  | .lset sw ew mw => 0x11#32 ||| placeFlag 8 sw ||| placeField 9 ew ||| placeField 18 mw
  | .constructZero cd s => constructWord 0 cd ||| placeFlag 18 s
  | .constructInf cd s => constructWord 1 cd ||| placeFlag 18 s
  | .constructNan cd sig ca => constructWord 2 cd ||| placeCA ca ||| placeFlag 19 sig
  | .constructSpsub cd => constructWord 3 cd
  | .constructLsub cd => constructWord 4 cd
  | .constructSpnorm cd => constructWord 5 cd
  | .constructLnorm cd => constructWord 6 cd
  | .constructLlt1 cd => constructWord 7 cd
  | .constructOne cd => constructWord 8 cd
  | .constructSgt1 cd => constructWord 9 cd
  | .classify cd ca => 0x21#32 ||| placeCD cd ||| placeCA ca
  | .encode cd => 0x30#32 ||| placeCD cd
  | .decode => 0x31#32

/-- The instruction this decoder reads from a word given as the opcode table numbers its bits. A command is one 32-bit word
with bit 0 its least significant bit (R101), so the table's number is the command word itself; the bits at and above `nbits`
are 0. -/
def decodeTableWord (nbits w : Nat) : Option Instr :=
  match decode (BitVec.ofNat 32 (w % 2 ^ nbits)) with
  | .ok i => some i
  | .error _ => none

end Sys2Proof
end

