-- ==== Sys2Proof/Machine/State.lean ====
section
/-! DEFINITION. The state of FPCODEC (10_state.md), its reset value (R52), and the reasons a step could stop. -/

namespace Sys2Proof.Machine

/-- A container value ⟨size, bits⟩ (R15, R32): bit i of the container is bit i of the number `bits`, for i below `size`.
Every value a run produces has size ≤ 256 and bits < 2^size (`Container.wf`, R32, R33). -/
structure Container where
  size : Nat
  bits : Nat
  deriving DecidableEq, Repr

/-- The container register file c0 to c7 (R32). -/
structure RegFile where
  c0 : Container
  c1 : Container
  c2 : Container
  c3 : Container
  c4 : Container
  c5 : Container
  c6 : Container
  c7 : Container
  deriving DecidableEq, Repr

/-- The layout register LR (R37), with the widths of its fields. -/
structure LayoutReg where
  valid : Bool
  sw    : Bool
  ew    : BitVec 9
  mw    : BitVec 9
  bias  : BitVec 32
  src   : BitVec 4
  deriving DecidableEq, Repr

/-- A layout record ⟨sw, ew, mw, bias⟩ (R201), as numbers. -/
structure Layout where
  sw   : Nat
  ew   : Nat
  mw   : Nat
  bias : Nat
  deriving DecidableEq, Repr

/-- A variant of the special-value model (R231); a sign or is-signaling of `true` is 1. -/
inductive SpecialValue where
  | zero (sgn : Bool)
  | infinity (sgn : Bool)
  | nan (sig : Bool) (payload : Container)
  | spsub | lsub | spnorm | lnorm | llt1 | one | sgt1
  deriving DecidableEq, Repr

/-- The class codes of RESULT.CLASS (R241). Codes 13 and 14 do not exist. -/
inductive ClassCode where
  | zeroNeg | zeroPos | infNeg | infPos | nanQuiet | nanSignaling
  | spsub | lsub | spnorm | lnorm | llt1 | one | sgt1 | none
  deriving DecidableEq, Repr

/-- The error codes of STATUS.ERR (R351). Codes 0x08..0xFF do not exist. -/
inductive ErrorCode where
  | ok | illegal | layout | capacity | range | length | bits | text
  deriving DecidableEq, Repr

/-- A non-negative binary64 value (R16, R40): a finite one is a whole number of units of 2^−1074, the smallest positive
binary64 number, and the other is +∞. Signs are kept beside the magnitude (R317). -/
inductive Binary64 where
  | finite (units : Nat)
  | infinite
  deriving DecidableEq, Repr

/-- The engine's control state (R31, R51). -/
inductive Engine where
  | idle
  | busy (w : Word)
  deriving DecidableEq, Repr

/-- How the bus answered an access (R74 to R76). -/
inductive BusResponse where
  /-- The data of a legal read. -/
  | data (v : Word)
  /-- A legal write was taken, whether it was performed, ignored (R75) or dropped (R385). -/
  | done
  /-- The bus error response of R74. -/
  | busError
  deriving DecidableEq, Repr

/-- What the outside of the block does next. The host's bus accesses come in the order the host issues them (R82), and the
platform's reset input is asserted and released (R381). An offset is relative to BASE and lies in the 16 KiB window (R71);
`bytes` is the width of the access in bytes (R73, R74). -/
inductive HostEvent where
  /-- One load of `bytes` bytes at the window offset `off`. -/
  | read (off : BitVec 14) (bytes : Nat)
  /-- One store of `bytes` bytes at the window offset `off`. For a width other than 4 bytes the value is immaterial (R74). -/
  | write (off : BitVec 14) (bytes : Nat) (v : Word)
  /-- The host's WAIT (R122, R387): read STATUS again and again until BUSY reads 0. -/
  | poll
  /-- The platform asserts reset (R381). -/
  | assertReset
  /-- The platform releases reset (R381). -/
  | releaseReset
  deriving DecidableEq, Repr

/-- What a window offset names (R72). -/
inductive WindowReg where
  | id | caps | cmd | status | result | prec | lcfg | lbias
  | lwidth | lsign | lexp | lman | lcsign | lcexp | lcman
  | din0 | din1 | din2 | din3 | tinLen | toutLen
  | csize (k : CReg)
  | cword (k : CReg) (j : Nat)
  /-- The four TIN bytes from byte index `i` on. -/
  | tin (i : Nat)
  /-- The four TOUT bytes from byte index `i` on. -/
  | tout (i : Nat)
  | unmapped
  deriving DecidableEq, Repr

/-- A text buffer (R41, R42): its bytes that are not 0, as (byte index, byte) pairs with rising indexes. An unlisted byte
reads 0, the reset contents the spec gives (R52). -/
abbrev Memory := List Host.Cell

/-- The machine. The first group is the spec's state (10_state.md); the second is the model's own (notes/assumptions 1 to 3):
what of the host and of the open latency one deterministic step needs. -/
structure State where
  /-- `Idle` or `Busy(w)` (R31). -/
  engine      : Engine
  /-- c0 to c7 (R32). -/
  regs        : RegFile
  /-- The layout register LR (R37). -/
  lr          : LayoutReg
  /-- TIN (R41). -/
  tin         : Memory
  /-- TIN_LEN, bits 12:0 (R41). -/
  tinLen      : BitVec 13
  /-- TOUT (R42). -/
  tout        : Memory
  /-- TOUT_LEN, bits 12:0 (R42). -/
  toutLen     : BitVec 13
  /-- DIN0: bits 31:0 of DIN (R43). -/
  din0        : Word
  /-- DIN1: bits 63:32 of DIN (R43). -/
  din1        : Word
  /-- DIN2: bits 95:64 of DIN (R43). -/
  din2        : Word
  /-- DIN3: bits 127:96 of DIN (R43). -/
  din3        : Word
  /-- PREC, bits 11:0 (R45). -/
  prec        : BitVec 12
  /-- STATUS.ERR (R46). -/
  err         : ErrorCode
  /-- STATUS.ERRS (R46, R353). -/
  errs        : Bool
  /-- STATUS.OVR (R46, R354). -/
  ovr         : Bool
  /-- RESULT.BOOL (R47). -/
  resultBool  : Bool
  /-- RESULT.CLASS (R47). -/
  resultClass : ClassCode
  /-- The platform's reset input: `true` while reset is asserted (R381). -/
  resetLine   : Bool
  /-- MODEL'S OWN: host accesses that still pass before the engine performs its command (R384, R389). -/
  wait        : Nat
  /-- MODEL'S OWN: the counter of free values drawn so far (R386, R389). -/
  draws       : Nat
  /-- MODEL'S OWN: what the outside does next, in order (R82). -/
  pending     : List HostEvent
  /-- MODEL'S OWN: the bus's answer to the last access. -/
  response    : Option BusResponse
  deriving DecidableEq, Repr

/-- Why the machine could stop with a fault. There is no constructor: FPCODEC takes no traps (R357), every failure is an error
code in STATUS (R352), and the spec leaves no behaviour undefined, so no step of this model ends in a fault (safe). -/
inductive Fault where
  deriving DecidableEq, Repr

/-- Why a step could have no meaning. -/
inductive Refusal where
  /-- Raised only by an arm of `exec` for a command that has no meaning yet, by its mnemonic; every command has its meaning,
  so nothing raises it (safe). -/
  | notModelled (mnemonic : String)
  deriving DecidableEq, Repr

/-- The empty container ⟨0, 0⟩ (R52). -/
def Container.empty : Container := ⟨0, 0⟩

/-- The register file after reset: every container ⟨0, 0⟩ (R52). -/
def RegFile.reset : RegFile :=
  ⟨.empty, .empty, .empty, .empty, .empty, .empty, .empty, .empty⟩

/-- LR after reset: every field 0 (R52). -/
def LayoutReg.reset : LayoutReg :=
  { valid := false, sw := false, ew := 0, mw := 0, bias := 0, src := 0 }

/-- The machine right after reset is released (R52, R381, R382). -/
def State.reset : State :=
  { engine := .idle, regs := .reset, lr := .reset,
    tin := [], tinLen := 0, tout := [], toutLen := 0,
    din0 := 0, din1 := 0, din2 := 0, din3 := 0, prec := 0,
    err := .ok, errs := false, ovr := false, resultBool := false, resultClass := .none,
    resetLine := false, wait := 0, draws := 0, pending := [], response := none }

end Sys2Proof.Machine
end

