-- ==== Sys2Proof/Config.lean ====
section
/-! DEFINITION. The implementation parameters of 00_scope.md section 3, the open parameters of 92_eei_decisions.md
(BASE, LAT, BUS_ERROR_REACTION) and the free value of a read made while the engine is busy (R386).
A constant with no body is one the spec leaves open: nothing can be proved of its value. -/

namespace Sys2Proof

namespace Config

open Sys2Proof.Machine

/-- CAP, the container capacity in bits, inclusive (R6). -/
abbrev cap : Nat := 256

/-- NUM_CR, the number of container registers (R7). -/
abbrev numCr : Nat := 8

/-- TEXT_MAX, the capacity of TIN and of TOUT in bytes (R8). -/
abbrev textMax : Nat := 4096

/-- The size of the register window in bytes (R71). -/
abbrev windowBytes : Nat := 0x4000

/-- The open parameter behind BASE: which 16 KiB frame of the host's address space the platform gives the window (R12, D10). -/
opaque baseFrame : Nat

/-- BASE, a multiple of 0x4000 (R12, R80). -/
def base : Nat := windowBytes * baseFrame

/-- LAT(w, state), the open latency of a command, counted in host accesses that pass before the engine performs it (R384, R389).
It is applied to the command word and to the whole state at the CMD write, so it may depend on every operand, and on the counter
`State.draws`, so that two commands issued on the same operands need not take the same time. -/
opaque latency : Word → State → Nat

/-- The value a read of a result register returns while the engine is busy: any value (R386, U6).
It is applied to the register and to the whole state, whose counter `State.draws` each such read raises, so two reads need not
agree. -/
opaque busyRead : WindowReg → State → Word

/-- BUS_ERROR_REACTION, the open parameter for what the host goes on to do after a bus error (R74, D11): from the refused access
and the state, with what the host would have done next in `State.pending`, to what it does next. -/
opaque busErrorReaction : HostEvent → State → List HostEvent

end Config

end Sys2Proof
end

