-- ==== Sys2Proof/Machine/Ops.lean ====
section
/-! DEFINITION. The named operations over text buffers and registers, and how every command ends: success or a raised error
(R352). FPCODEC takes no traps (R357), so raising an error is the only exception there is, and there is no return from one
(R359). -/

namespace Sys2Proof.Machine

/-! Text buffers. -/

/-- What a byte that is not listed reads as: 0, the reset contents of TIN and TOUT (R52). -/
def unlistedByte : Byte := 0

/-- The byte at index `a` of a text buffer. -/
def Memory.read : Memory → Nat → Byte
  | [], _ => unlistedByte
  | (k, v) :: m, a => if a = k then v else Memory.read m a

/-- A text buffer with the byte at index `a` replaced, in canonical form: writing 0 removes the entry. -/
def Memory.write : Memory → Nat → Byte → Memory
  | [], a, b => if b = unlistedByte then [] else [(a, b)]
  | (k, v) :: m, a, b =>
    if a < k then (if b = unlistedByte then (k, v) :: m else (a, b) :: (k, v) :: m)
    else if a = k then (if b = unlistedByte then m else (a, b) :: m)
    else (k, v) :: Memory.write m a b

/-- A text buffer that holds the bytes `s` from index `a` on and 0 everywhere else. -/
def Memory.ofBytesFrom : Nat → List Byte → Memory
  | _, [] => []
  | a, b :: s => if b = unlistedByte then Memory.ofBytesFrom (a + 1) s else (a, b) :: Memory.ofBytesFrom (a + 1) s

/-- A text buffer that holds the bytes `s` from index 0 on and 0 everywhere else (R42). -/
def Memory.ofBytes (s : List Byte) : Memory := Memory.ofBytesFrom 0 s

/-- The first `n` bytes of a text buffer, in order (R41). -/
def Memory.text (m : Memory) (n : Nat) : List Byte := (List.range n).map fun i => Memory.read m i

/-- The entries from index `lo` on are canonical: indexes strictly rising and below `hi`, no listed byte 0. -/
def Memory.wfFrom (hi : Nat) : Nat → Memory → Bool
  | _, [] => true
  | lo, (k, v) :: m => decide (lo ≤ k) && decide (k < hi) && decide (v ≠ unlistedByte) && Memory.wfFrom hi (k + 1) m

/-- The canonical form of a text buffer of TEXT_MAX bytes (R8): equal buffers are equal lists. -/
def Memory.wf (m : Memory) : Bool := Memory.wfFrom Config.textMax 0 m

/-! Container registers. -/

/-- The value of a container register (R15, R32). -/
def RegFile.get (f : RegFile) : CReg → Container
  | .c0 => f.c0 | .c1 => f.c1 | .c2 => f.c2 | .c3 => f.c3
  | .c4 => f.c4 | .c5 => f.c5 | .c6 => f.c6 | .c7 => f.c7

/-- The register file with one register written: no register shares storage with another (R141(b)). -/
def RegFile.set (f : RegFile) (k : CReg) (v : Container) : RegFile :=
  match k with
  | .c0 => { f with c0 := v } | .c1 => { f with c1 := v } | .c2 => { f with c2 := v } | .c3 => { f with c3 := v }
  | .c4 => { f with c4 := v } | .c5 => { f with c5 := v } | .c6 => { f with c6 := v } | .c7 => { f with c7 := v }

/-- `c[k]` (R15). -/
def State.getC (s : State) (k : CReg) : Container := s.regs.get k

/-- `c[k] <- v` (R15). -/
def State.setC (s : State) (k : CReg) (v : Container) : State := { s with regs := s.regs.set k v }

/-! Operand buffers and the output buffer. -/

/-- The text a command reads: TIN[0..TIN_LEN − 1] (R41). -/
def State.tinText (s : State) : List Byte := s.tin.text s.tinLen.toNat

/-- `TOUT[0..|t|−1] <- t; TOUT[|t|..4095] <- 0; TOUT_LEN <- |t|` (R42). -/
def State.putTout (s : State) (t : List Byte) : State :=
  { s with tout := Memory.ofBytes t, toutLen := BitVec.ofNat 13 t.length }

/-- DIN = DIN3 ++ DIN2 ++ DIN1 ++ DIN0, as a 128-bit unsigned number (R43). -/
def State.din (s : State) : Nat := (s.din3 ++ s.din2 ++ s.din1 ++ s.din0).toNat

/-! How a command ends. -/

/-- Success (R352(a)): STATUS.ERR is 0, STATUS.ERRS is unchanged and the engine returns to `Idle` (R384(b)). -/
def completeOk (s : State) : State := { s with err := .ok, engine := .idle }

/-- Taking an error (R352(b)): STATUS.ERR holds the code, STATUS.ERRS is 1, the engine returns to `Idle`, and nothing else
changes. -/
def raiseError (e : ErrorCode) (s : State) : State := { s with err := e, errs := true, engine := .idle }

/-- The end of a command that started in `s`: its writes take effect together, or an error discards all of them (R352, R384). -/
def settle (s : State) (r : Except ErrorCode State) : Host.Outcome State Fault Refusal :=
  match r with
  | .ok s' => .next (completeOk s')
  | .error e => .next (raiseError e s)

end Sys2Proof.Machine
end

