-- ==== Sys2Proof/Machine/Operands.lean ====
section
/-! DEFINITION. The primitive container functions of R142, with which every command and the codec's internal steps are
written, and the reading of a text as an MSB-first bit string (R14). -/

namespace Sys2Proof.Machine

/-- A container of a legal value: size ≤ CAP, and zeros at and above its size (R32, R33). -/
abbrev Container.wf (x : Container) : Prop := x.size ≤ Config.cap ∧ x.bits < 2 ^ x.size

/-- The character '0' (R14). -/
def charZero : Byte := 0x30

/-- The character '1' (R14). -/
def charOne : Byte := 0x31

/-- `bit(c, i)`: the bit read of a container; bits at and above its size read 0 (R34). -/
def Container.bit (c : Container) (i : Nat) : Bool := decide (i < c.size) && c.bits.testBit i

/-- `zeros(n)`: the source's allZero (R142). -/
def zeros (n : Nat) : Container := ⟨n, 0⟩

/-- `onesC(n)`: the source's allOne (R142). -/
def onesC (n : Nat) : Container := ⟨n, 2 ^ n - 1⟩

/-- `fld(n, v)`: an n-bit field holding v (R142). -/
def fld (n v : Nat) : Container := ⟨n, v % 2 ^ n⟩

/-- `cat(x, y)`: x takes the high bits (R142). -/
def cat (x y : Container) : Container := ⟨x.size + y.size, x.bits * 2 ^ y.size + y.bits⟩

/-- `rsLow(x, n)`: resize with policy AffectLowBits (R142). -/
def rsLow (x : Container) (n : Nat) : Container :=
  if x.size ≤ n then ⟨n, x.bits * 2 ^ (n - x.size)⟩ else ⟨n, x.bits / 2 ^ (x.size - n)⟩

/-- `rsHigh(x, n)`: resize with policy AffectHighBits; growth fills with zeros (R142, D4). -/
def rsHigh (x : Container) (n : Nat) : Container := ⟨n, x.bits % 2 ^ n⟩

/-- The number whose bit i is `f i`, for i below n: Σ_{i<n} f(i)·2^i. -/
def bitSum (f : Nat → Bool) : Nat → Nat
  | 0 => 0
  | n + 1 => bitSum f n + (f n).toNat * 2 ^ n

/-- `sub(x, lo, hi)`: the half-open bit range [lo, hi) as a container; the source's getSub (R142, R151). -/
def sub (x : Container) (lo hi : Nat) : Container := ⟨hi - lo, bitSum (fun i => x.bit (lo + i)) (hi - lo)⟩

/-- `allIn(x, lo, hi, b)`: every bit of [lo, hi) is b; the source's allBitsInRangeAre (R142). -/
def allIn (x : Container) (lo hi : Nat) (b : Bool) : Bool :=
  (List.range (hi - lo)).all fun i => x.bit (lo + i) == b

/-- The character of a bit (R14). -/
def bitChar (b : Bool) : Byte := if b then charOne else charZero

/-- `text(x)`: the MSB-first rendering, whose byte c shows bit size−1−c (R14, R142). -/
def Container.text (x : Container) : List Byte := (List.range x.size).map fun c => bitChar (x.bit (x.size - 1 - c))

/-- Every byte of a text is '0' or '1' (R154, R155, R312). -/
def isBitText (t : List Byte) : Bool := t.all fun b => b == charZero || b == charOne

/-- Σ_c [t[c] = '1']·2^(L−1−c): the number an MSB-first bit string of length L shows (R154). -/
def bitTextValue (t : List Byte) : Nat := t.foldl (fun v b => 2 * v + (b == charOne).toNat) 0

/-- The container an MSB-first bit string shows: ⟨L, Σ_c [t[c] = '1']·2^(L−1−c)⟩ (R154, R312). -/
def parseBits (t : List Byte) : Container := ⟨t.length, bitTextValue t⟩

/-- ⟨size, bits − bit(d, N)·2^N + P·2^N⟩: a container with bit N replaced, for N below its size (R147). -/
def Container.withBit (d : Container) (n : Nat) (p : Bool) : Container :=
  ⟨d.size, d.bits - (d.bit n).toNat * 2 ^ n + p.toNat * 2 ^ n⟩

end Sys2Proof.Machine
end

