-- ==== Sys2Proof/Machine/Flags.lean ====
section
/-! DEFINITION. The flags (R49): the codes of STATUS.ERR and RESULT.CLASS, the words STATUS and RESULT read as, and every way
a flag is written. No command reads a flag. -/

namespace Sys2Proof.Machine

/-- The 8-bit code of STATUS.ERR (R351). -/
def ErrorCode.code : ErrorCode → Nat
  | .ok => 0 | .illegal => 1 | .layout => 2 | .capacity => 3 | .range => 4 | .length => 5 | .bits => 6 | .text => 7

/-- The 4-bit code of RESULT.CLASS (R241). -/
def ClassCode.code : ClassCode → Nat
  | .zeroNeg => 0 | .zeroPos => 1 | .infNeg => 2 | .infPos => 3 | .nanQuiet => 4 | .nanSignaling => 5
  | .spsub => 6 | .lsub => 7 | .spnorm => 8 | .lnorm => 9 | .llt1 => 10 | .one => 11 | .sgt1 => 12 | .none => 15

/-- STATUS.BUSY: 1 while the engine is `Busy` (R46). -/
def State.isBusy (s : State) : Bool :=
  match s.engine with
  | .idle => false
  | .busy _ => true

/-- The value STATUS reads as (R46): bit 0 BUSY, bit 1 ERRS, bit 2 OVR, bits 15:8 ERR, the rest 0. -/
def statusWord (s : State) : Word :=
  BitVec.ofNat 32 (s.isBusy.toNat + s.errs.toNat * 2 + s.ovr.toNat * 4 + s.err.code * 2 ^ 8)

/-- The value RESULT reads as (R47): bit 0 BOOL, bits 11:8 CLASS, the rest 0. -/
def resultWord (s : State) : Word := BitVec.ofNat 32 (s.resultBool.toNat + s.resultClass.code * 2 ^ 8)

/-- A host write of STATUS (R46): a 1 in bit 1 clears ERRS, a 1 in bit 2 clears OVR, and nothing else changes. -/
def State.writeStatus (s : State) (v : Word) : State :=
  { s with errs := s.errs && !v.getLsbD 1, ovr := s.ovr && !v.getLsbD 2 }

/-- `RESULT.BOOL <- b`, every other field kept (R47). -/
def State.setBool (s : State) (b : Bool) : State := { s with resultBool := b }

/-- `RESULT.CLASS <- k`, every other field kept (R47). -/
def State.setClass (s : State) (k : ClassCode) : State := { s with resultClass := k }

/-- A host write dropped because the engine is busy sets OVR and changes nothing else (R354, R385). -/
def State.setOverrun (s : State) : State := { s with ovr := true }

end Sys2Proof.Machine
end

