-- ==== Sys2Proof/Machine/BitContainer.lean ====
section
/-! DEFINITION. The bit-container commands (40_bitcontainer.md R143 to R156), one meaning per command. -/

namespace Sys2Proof.Machine

/-- A value to be written to c[CD], or CAPACITY when the size asked for exceeds CAP (R143, R144, R145, R149, R150). -/
def sizedWrite (s : State) (cd : CReg) (n : Nat) (v : Container) : Except ErrorCode State :=
  if Config.cap < n then .error .capacity else .ok (s.setC cd v)

/-- The range checks of GETSUB, RANGE0 and RANGE1, CAPACITY first (R151 to R153, R355). -/
def ranged (lo hi : Nat) (t : State) : Except ErrorCode State :=
  if Config.cap < hi then .error .capacity else if hi < lo then .error .range else .ok t

/-- FROMU for an input type of `tw` bits (R145): the value DIN mod 2^tw in the low bits of an N-bit container. -/
def fromUnsigned (s : State) (tw : Nat) (cd : CReg) (n : Nat) : Except ErrorCode State :=
  sizedWrite s cd n (fld n (s.din % 2 ^ tw))

/-- ALL0 (R143). -/
def execAll0 (cd : CReg) (n : Nat) (s : State) : Host.Outcome State Fault Refusal :=
  settle s (sizedWrite s cd n (zeros n))

/-- ALL1 (R144). -/
def execAll1 (cd : CReg) (n : Nat) (s : State) : Host.Outcome State Fault Refusal :=
  settle s (sizedWrite s cd n (onesC n))

/-- FROMU.8 (R145). -/
def execFromu8 (cd : CReg) (n : Nat) (s : State) : Host.Outcome State Fault Refusal :=
  settle s (fromUnsigned s 8 cd n)

/-- FROMU.16 (R145). -/
def execFromu16 (cd : CReg) (n : Nat) (s : State) : Host.Outcome State Fault Refusal :=
  settle s (fromUnsigned s 16 cd n)

/-- FROMU.32 (R145). -/
def execFromu32 (cd : CReg) (n : Nat) (s : State) : Host.Outcome State Fault Refusal :=
  settle s (fromUnsigned s 32 cd n)

/-- FROMU.64 (R145). -/
def execFromu64 (cd : CReg) (n : Nat) (s : State) : Host.Outcome State Fault Refusal :=
  settle s (fromUnsigned s 64 cd n)

/-- FROMU.128 (R145). -/
def execFromu128 (cd : CReg) (n : Nat) (s : State) : Host.Outcome State Fault Refusal :=
  settle s (fromUnsigned s 128 cd n)

/-- GET (R146). -/
def execGet (ca : CReg) (n : Nat) (s : State) : Host.Outcome State Fault Refusal :=
  settle s (.ok (s.setBool ((s.getC ca).bit n)))

/-- SET (R147): RANGE at and above the size. -/
def execSet (cd : CReg) (n : Nat) (p : Bool) (s : State) : Host.Outcome State Fault Refusal :=
  settle s (if (s.getC cd).size ≤ n then .error .range else .ok (s.setC cd ((s.getC cd).withBit n p)))

/-- CONCAT (R148): c[CA] takes the high bits. -/
def execConcat (cd ca cb : CReg) (s : State) : Host.Outcome State Fault Refusal :=
  settle s (sizedWrite s cd ((s.getC ca).size + (s.getC cb).size) (cat (s.getC ca) (s.getC cb)))

/-- RESIZE.LO (R149). -/
def execResizeLo (cd ca : CReg) (n : Nat) (s : State) : Host.Outcome State Fault Refusal :=
  settle s (sizedWrite s cd n (rsLow (s.getC ca) n))

/-- RESIZE.HI (R150). -/
def execResizeHi (cd ca : CReg) (n : Nat) (s : State) : Host.Outcome State Fault Refusal :=
  settle s (sizedWrite s cd n (rsHigh (s.getC ca) n))

/-- GETSUB (R151). -/
def execGetsub (cd ca : CReg) (lo hi : Nat) (s : State) : Host.Outcome State Fault Refusal :=
  settle s (ranged lo hi (s.setC cd (sub (s.getC ca) lo hi)))

/-- RANGE0 (R152). -/
def execRange0 (ca : CReg) (lo hi : Nat) (s : State) : Host.Outcome State Fault Refusal :=
  settle s (ranged lo hi (s.setBool (allIn (s.getC ca) lo hi false)))

/-- RANGE1 (R153). -/
def execRange1 (ca : CReg) (lo hi : Nat) (s : State) : Host.Outcome State Fault Refusal :=
  settle s (ranged lo hi (s.setBool (allIn (s.getC ca) lo hi true)))

/-- PARSE (R154): CAPACITY, then BITS. -/
def execParse (cd : CReg) (s : State) : Host.Outcome State Fault Refusal :=
  settle s
    (if Config.cap < s.tinLen.toNat then .error .capacity
     else if ¬isBitText s.tinText then .error .bits
     else .ok (s.setC cd (parseBits s.tinText)))

/-- PARSE.N (R155): CAPACITY, then LENGTH, then BITS. -/
def execParseN (cd : CReg) (n : Nat) (s : State) : Host.Outcome State Fault Refusal :=
  settle s
    (if Config.cap < n then .error .capacity
     else if s.tinLen.toNat ≠ n then .error .length
     else if ¬isBitText s.tinText then .error .bits
     else .ok (s.setC cd (parseBits s.tinText)))

/-- RENDER (R156). -/
def execRender (ca : CReg) (s : State) : Host.Outcome State Fault Refusal :=
  settle s (.ok (s.putTout (s.getC ca).text))

end Sys2Proof.Machine
end

