-- ==== Sys2Proof/Machine/Layout.lean ====
section
/-! DEFINITION. The layout descriptor (41_layout.md): derived quantities, the field mux in both directions, the ROM, validity,
and the values of LCFG, LBIAS and the seven derived layout registers. -/

namespace Sys2Proof.Machine

/-- W = sw + ew + mw (R202). -/
def Layout.width (l : Layout) : Nat := l.sw + l.ew + l.mw

/-- ones_e = 2^ew − 1, the all-ones exponent value (R201). -/
def Layout.onesE (l : Layout) : Nat := 2 ^ l.ew - 1

/-- ones_m = 2^mw − 1 (R201). -/
def Layout.onesM (l : Layout) : Nat := 2 ^ l.mw - 1

/-- The validity predicate of a layout (R211). -/
abbrev Layout.valid (l : Layout) : Prop :=
  (l.sw = 0 ∨ l.sw = 1) ∧ 2 ≤ l.ew ∧ 2 ≤ l.mw ∧ l.sw + l.ew + l.mw ≤ Config.cap ∧ 2 ≤ l.bias ∧ l.bias ≤ 2 ^ l.ew - 2

/-- The current layout: LR's ⟨SW, EW, MW, BIAS⟩ (R201). It is defined only when LR.VALID = 1. -/
def LayoutReg.layout (r : LayoutReg) : Layout := ⟨r.sw.toNat, r.ew.toNat, r.mw.toNat, r.bias.toNat⟩

/-- sgn(p): the sign bit, or 0 when the sign field is absent (R205). -/
def Layout.sgn (l : Layout) (p : Container) : Bool := l.sw == 1 && p.bit (l.width - 1)

/-- neg(p) (R205). -/
def Layout.neg (l : Layout) (p : Container) : Bool := l.sw == 1 && p.bit (l.width - 1)

/-- expf(p): the unsigned exponent field value (R205). -/
def Layout.expf (l : Layout) (p : Container) : Nat := (sub p l.mw (l.mw + l.ew)).bits

/-- manf(p): the unsigned mantissa field value (R205). -/
def Layout.manf (l : Layout) (p : Container) : Nat := (sub p 0 l.mw).bits

/-- pack(s, e, m): the pattern assembled from its fields; the sign is ignored when the sign field is absent (R206). -/
def Layout.pack (l : Layout) (s : Bool) (e m : Nat) : Container :=
  if l.sw = 1 then cat (fld 1 s.toNat) (cat (fld l.ew e) (fld l.mw m)) else cat (fld l.ew e) (fld l.mw m)

/-- The layout ROM, IDX 0 to 8 (R208). -/
def layoutRom : List Layout :=
  [ ⟨1, 5, 10, 15⟩,          -- 0 float16
    ⟨1, 8, 23, 127⟩,         -- 1 float32
    ⟨1, 11, 52, 1023⟩,       -- 2 float64
    ⟨1, 15, 112, 16383⟩,     -- 3 float128
    ⟨1, 19, 236, 262143⟩,    -- 4 float256
    ⟨1, 4, 3, 7⟩,            -- 5 fp8-e4m3
    ⟨1, 5, 2, 15⟩,           -- 6 fp8-e5m2
    ⟨1, 8, 7, 127⟩,          -- 7 bfloat16
    ⟨1, 8, 10, 127⟩ ]        -- 8 tensorfloat32

/-- LR loaded with a layout: VALID = 1, every field at once (R37, R209, R210). -/
def LayoutReg.load (l : Layout) (src : Nat) : LayoutReg :=
  { valid := true, sw := l.sw == 1, ew := BitVec.ofNat 9 l.ew, mw := BitVec.ofNat 9 l.mw,
    bias := BitVec.ofNat 32 l.bias, src := BitVec.ofNat 4 src }

/-- The current layout, or the LAYOUT error while LR.VALID = 0 (R201, R356). -/
def State.layoutOr (s : State) : Except ErrorCode Layout :=
  if s.lr.valid then .ok s.lr.layout else .error .layout

/-! The words the layout registers read as. -/

/-- LCFG (R37): [8:0] EW, [17:9] MW, [18] SW, [19] VALID, [23:20] SRC. -/
def lcfgWord (r : LayoutReg) : Word :=
  BitVec.ofNat 32 (r.ew.toNat + r.mw.toNat * 2 ^ 9 + r.sw.toNat * 2 ^ 18 + r.valid.toNat * 2 ^ 19 + r.src.toNat * 2 ^ 20)

/-- LBIAS (R37). -/
def lbiasWord (r : LayoutReg) : Word := r.bias

/-- A half-open range in a derived register: [8:0] lo, [24:16] hi (R38). -/
def rangeWord (lo hi : Nat) : Word := BitVec.ofNat 32 (lo + hi * 2 ^ 16)

/-- A derived register reads 0 while LR.VALID = 0 (R38). -/
def whenValid (r : LayoutReg) (w : Word) : Word := if r.valid then w else 0

/-- LWIDTH (R207). -/
def lwidthWord (r : LayoutReg) : Word := whenValid r (BitVec.ofNat 32 r.layout.width)

/-- LSIGN (R207): [8:0] the sign bit's index, [31] PRESENT. -/
def lsignWord (r : LayoutReg) : Word :=
  whenValid r (if r.sw then BitVec.ofNat 32 (r.layout.width - 1 + 2 ^ 31) else 0)

/-- LEXP (R207): the exponent's bit range. -/
def lexpWord (r : LayoutReg) : Word := whenValid r (rangeWord r.layout.mw (r.layout.mw + r.layout.ew))

/-- LMAN (R207): the mantissa's bit range. -/
def lmanWord (r : LayoutReg) : Word := whenValid r (rangeWord 0 r.layout.mw)

/-- LCSIGN (R207): the sign's character range. -/
def lcsignWord (r : LayoutReg) : Word := whenValid r (rangeWord 0 r.layout.sw)

/-- LCEXP (R207): the exponent's character range. -/
def lcexpWord (r : LayoutReg) : Word := whenValid r (rangeWord r.layout.sw (r.layout.sw + r.layout.ew))

/-- LCMAN (R207): the mantissa's character range. -/
def lcmanWord (r : LayoutReg) : Word := whenValid r (rangeWord (r.layout.sw + r.layout.ew) r.layout.width)

end Sys2Proof.Machine
end

