-- ==== Sys2Proof/Machine/Special.lean ====
section
/-! DEFINITION. The special-value model (42_special_values.md): the constructor from a landmark to its pattern, the classifier
from a pattern to its class code, and the NaN payload. -/

namespace Sys2Proof.Machine

/-- construct(NaN(sig, payload)) (R236): zero sign, all-ones exponent, quiet flag (1 = quiet), the payload resized by
AffectHighBits to mw − 2 bits, and a forced trailing 1. -/
def constructNaN (l : Layout) (sig : Bool) (payload : Container) : Container :=
  let pl := rsHigh payload (l.mw - 2)
  let q := fld 1 (1 - sig.toNat)
  let r := cat (cat (cat (onesC l.ew) q) pl) (fld 1 1)
  if l.sw = 1 then cat (fld 1 0) r else r

/-- The constructor (R233 to R237). -/
def construct (l : Layout) : SpecialValue → Container
  | .zero s => l.pack s 0 0
  | .infinity s => l.pack s l.onesE 0
  | .nan sig payload => constructNaN l sig payload
  | .spsub => l.pack false 0 1
  | .lsub => l.pack false 0 l.onesM
  | .spnorm => l.pack false 1 0
  | .lnorm => l.pack false (l.onesE - 1) l.onesM
  | .llt1 => l.pack false (l.bias - 1) l.onesM
  | .one => l.pack false l.bias 0
  | .sgt1 => l.pack false l.bias 1

/-- The classifier (R239): the first test that holds, in the order of the rule's table. -/
def classify (l : Layout) (p : Container) : ClassCode :=
  let e := l.expf p
  let m := l.manf p
  let neg := l.neg p
  if neg ∧ e = 0 ∧ m = 0 then .zeroNeg
  else if ¬neg ∧ e = 0 ∧ m = 0 then .zeroPos
  else if neg ∧ e = l.onesE ∧ m = 0 then .infNeg
  else if ¬neg ∧ e = l.onesE ∧ m = 0 then .infPos
  else if e = l.onesE ∧ p.bit (l.mw - 1) then .nanQuiet
  else if e = l.onesE ∧ ¬p.bit (l.mw - 1) then .nanSignaling
  else if ¬neg ∧ e = 0 ∧ m = 1 then .spsub
  else if ¬neg ∧ e = 0 ∧ m = l.onesM then .lsub
  else if ¬neg ∧ e = 1 ∧ m = 0 then .spnorm
  else if ¬neg ∧ e = l.onesE - 1 ∧ m = l.onesM then .lnorm
  else if ¬neg ∧ e = l.bias - 1 ∧ m = l.onesM then .llt1
  else if ¬neg ∧ e = l.bias ∧ m = 0 then .one
  else if ¬neg ∧ e = l.bias ∧ m = 1 then .sgt1
  else .none

/-- The NaN payload of a pattern: mantissa bits mw − 2 down to 1 (R240). -/
def nanPayload (l : Layout) (p : Container) : Container := sub p 1 (l.mw - 1)

/-- A class that carries a payload: NAN_QUIET or NAN_SIGNALING (R240). -/
def ClassCode.isNaN : ClassCode → Bool
  | .nanQuiet | .nanSignaling => true
  | _ => false

/-- classOf(v): the class code of a variant value (R232). -/
def classOf (l : Layout) : SpecialValue → ClassCode
  | .zero s => if s ∧ l.sw = 1 then .zeroNeg else .zeroPos
  | .infinity s => if s ∧ l.sw = 1 then .infNeg else .infPos
  | .nan sig _ => if sig then .nanSignaling else .nanQuiet
  | .spsub => .spsub
  | .lsub => .lsub
  | .spnorm => .spnorm
  | .lnorm => .lnorm
  | .llt1 => .llt1
  | .one => .one
  | .sgt1 => .sgt1

end Sys2Proof.Machine
end

