-- ==== Sys2Proof/Machine/Binary64.lean ====
section
/-! DEFINITION. The binary64 arithmetic of the decoder (R16, R40, R315 to R317; 93_implementation_defined.md G2), exact on
integers: a finite magnitude is a whole number of units of 2^−1074. -/

namespace Sys2Proof.Machine

/-- The number of units of 2^−1074 in 1. -/
abbrev unitsPerOne : Nat := 2 ^ 1074

/-- The integer nearest to a/b, ties to the even one (R16, R318). -/
def roundHalfEven (a b : Nat) : Nat :=
  let q := a / b
  let r := a % b
  if 2 * r < b then q else if b < 2 * r then q + 1 else if q % 2 = 0 then q else q + 1

/-- round64 of the non-negative rational num/den (R16): the nearest binary64 value, ties to even. Below 2^53 units every unit
is representable; above, the significand keeps 53 bits; a result of 2^1024 or more is +∞. -/
def round64 (num den : Nat) : Binary64 :=
  let drop := Nat.log2 (num * unitsPerOne / den) - 52
  let units := roundHalfEven (num * unitsPerOne) (den * 2 ^ drop) * 2 ^ drop
  if units < 2 ^ (1024 + 1074) then .finite units else .infinite

/-- The binary64 value 0.0. -/
def Binary64.zero : Binary64 := .finite 0

/-- The binary64 value 1.0 (R315). -/
def Binary64.one : Binary64 := .finite unitsPerOne

/-- f64add of two magnitudes: one rounded operation (R16, R315). -/
def Binary64.add : Binary64 → Binary64 → Binary64
  | .finite a, .finite b => round64 (a + b) unitsPerOne
  | .infinite, _ => .infinite
  | _, .infinite => .infinite

/-- f64mul of two magnitudes: one rounded operation; a positive value times +∞ is +∞ (R16, R317). The product 0 times +∞ never
arises, since the decoder's first factor is at least 1 (R315, R319). -/
def Binary64.mul : Binary64 → Binary64 → Binary64
  | .finite a, .finite b => round64 (a * b) (unitsPerOne * unitsPerOne)
  | .infinite, _ => .infinite
  | _, .infinite => .infinite

/-- The negative-powers ROM: NPT[i] = 2^−(i+1), i = 0..254 (R9, R40). -/
def npt : List Binary64 := (List.range 255).map fun i => .finite (2 ^ (1074 - (i + 1)))

/-- NPT[i]. R211 keeps every index a decode reads below 255 (R315). -/
def nptRead (i : Nat) : Binary64 := npt[i]?.getD Binary64.zero

/-- pow2(e): 2^e as a binary64 value (R316). -/
def pow2 (e : Int) : Binary64 :=
  if 1023 < e then .infinite else if e < -1074 then .zero else .finite (2 ^ (e + 1074).toNat)

end Sys2Proof.Machine
end

