-- ==== Sys2Proof/Machine/Encoder.lean ====
section
/-! DEFINITION. encode(t): decimal text to bit pattern (43_encode.md R272 to R284). All arithmetic is exact: the value is the
rational num/den, and a digit string is an unbounded number of binary digits with the number they show (R281, D48). -/

namespace Sys2Proof.Machine

/-! Text front end. -/

/-- The bytes trim removes: space, tab, LF, VT, FF, CR (R272). -/
def isTrimByte (b : Byte) : Bool :=
  b == 0x20 || b == 0x09 || b == 0x0A || b == 0x0B || b == 0x0C || b == 0x0D

/-- lower(ch): 'A'..'Z' to 'a'..'z', every other byte kept (R17, R272). -/
def lower (b : Byte) : Byte := if 0x41 ≤ b.toNat ∧ b.toNat ≤ 0x5A then b + 0x20 else b

/-- trim: every leading and trailing trim byte removed (R272). -/
def trim (t : List Byte) : List Byte :=
  ((t.dropWhile isTrimByte).reverse.dropWhile isTrimByte).reverse

/-- Step 1: u = fold(trim(t)) (R272). -/
def normalize (t : List Byte) : List Byte := (trim t).map lower

/-- contains(t, s): the byte string s occurs contiguously in t (R17). -/
def contains (t s : List Byte) : Bool :=
  match t with
  | [] => s.isPrefixOf []
  | b :: t' => s.isPrefixOf (b :: t') || contains t' s

/-- The text "inf" (R273). -/
def textInf : List Byte := [0x69, 0x6E, 0x66]

/-- The text "nan" (R273). -/
def textNan : List Byte := [0x6E, 0x61, 0x6E]

/-- '-' -/
def charMinus : Byte := 0x2D

/-- '+' -/
def charPlus : Byte := 0x2B

/-- '.' -/
def charPoint : Byte := 0x2E

/-- The text starts with '-' (R273, R274). -/
def startsMinus (u : List Byte) : Bool := u.head? == some charMinus

/-- A decimal digit (R274). -/
def isDigit (b : Byte) : Bool := decide (0x30 ≤ b.toNat) && decide (b.toNat ≤ 0x39)

/-- int(A): the number a digit string shows; int("") = 0 (R274). -/
def decimalValue (ds : List Byte) : Nat := ds.foldl (fun v b => 10 * v + (b.toNat - 0x30)) 0

/-- The text after an optional sign (R274). -/
def dropSign (u : List Byte) : List Byte :=
  match u with
  | [] => []
  | b :: r => if b == charMinus || b == charPlus then r else b :: r

/-- An unsigned numeral split at its point into the digit strings A and B (R274): digits [ '.' [ digits ] ] | '.' digits.
`none` when the text does not match the grammar. -/
def splitNumeral (r : List Byte) : Option (List Byte × List Byte) :=
  let a := r.takeWhile isDigit
  match r.dropWhile isDigit with
  | [] => if a = [] then none else some (a, [])
  | c :: b => if c = charPoint ∧ b.all isDigit ∧ ¬(a = [] ∧ b = []) then some (a, b) else none

/-- The exact value of a numeral: num/den with den a power of ten (R274). -/
structure Decimal where
  num : Nat
  den : Nat
  deriving DecidableEq, Repr

/-- x = int(A) + int(B)/10^|B| for a text that matches the grammar (R274). -/
def parseDecimal (u : List Byte) : Option Decimal :=
  match splitNumeral (dropSign u) with
  | none => none
  | some (a, b) => some ⟨decimalValue a * 10 ^ b.length + decimalValue b, 10 ^ b.length⟩

/-! Digit generation. -/

/-- A string of `len` binary digits, MSB first, that shows the number `val` (R281). -/
structure Digits where
  len : Nat
  val : Nat
  deriving DecidableEq, Repr

/-- The binary digits of I > 0 without the leading 1 (R277): bitlen(I) − 1 digits. -/
def integerDigits (i : Nat) : Digits := ⟨Nat.log2 i, i - 2 ^ Nat.log2 i⟩

/-- The doublings of R277 for 0 < F < 1, F = fr/den: double until F ≥ 1, counting, then take the 1 away. Answers z and the
remaining F·den. At most `fuel` doublings; log2(den) + 1 always suffice, since F ≥ 1/den. -/
def leadingOne (den : Nat) : (fuel : Nat) → (fr z : Nat) → Nat × Nat
  | 0, fr, z => (z, fr)
  | fuel + 1, fr, z => if den ≤ 2 * fr then (z + 1, 2 * fr - den) else leadingOne den fuel (2 * fr) (z + 1)

/-- The fraction digits of R278: at most `need` doublings, stopping when F = 0. Answers the digit string so far extended, and
the remaining F·den. -/
def fractionDigits (den : Nat) : (need : Nat) → (fr : Nat) → Digits → Digits × Nat
  | 0, fr, d => (d, fr)
  | need + 1, fr, d =>
    if fr = 0 then (d, fr)
    else if den ≤ 2 * fr then fractionDigits den need (2 * fr - den) ⟨d.len + 1, 2 * d.val + 1⟩
    else fractionDigits den need (2 * fr) ⟨d.len + 1, 2 * d.val⟩

/-- What R276 to R278 leave for a value x > 0: k, z, the digit string d = ib ++ fb, and the remainder F = rem/den. -/
structure Expansion where
  k   : Nat
  z   : Nat
  d   : Digits
  rem : Nat
  deriving DecidableEq, Repr

/-- The split and the digit generation for x > 0 (R276 to R278). -/
def expand (mw : Nat) (x : Decimal) : Expansion :=
  let i := x.num / x.den
  let fr := x.num % x.den
  if 0 < i then
    let ib := integerDigits i
    let r := fractionDigits x.den (mw - ib.len) fr ib
    ⟨ib.len, 0, r.1, r.2⟩
  else
    let o := leadingOne x.den (Nat.log2 x.den + 1) fr 0
    let r := fractionDigits x.den mw o.2 ⟨0, 0⟩
    ⟨0, o.1, r.1, r.2⟩

/-! Exponent, assembly and rounding. -/

/-- mant: rsLow of the digit string to mw digits, on a number (R281). -/
def fitMantissa (d : Digits) (mw : Nat) : Nat :=
  if mw ≤ d.len then d.val / 2 ^ (d.len - mw) else d.val * 2 ^ (mw - d.len)

/-- The increment and the largest-normal check (R283). -/
def incrementPattern (l : Layout) (s : Bool) (p : Container) : Container :=
  if p = construct l .lnorm then construct l (.infinity s) else ⟨l.width, (p.bits + 1) % 2 ^ l.width⟩

/-- Steps 6 to 8 for the expansion of x > 0 (R279 to R283). -/
def assemble (l : Layout) (s : Bool) (den : Nat) (x : Expansion) : Container :=
  let eb : Int := (x.k : Int) - x.z + l.bias
  if (l.onesE : Int) ≤ eb then construct l (.infinity s)
  else if eb < 0 then construct l (.zero s)
  else
    let p := l.pack s eb.toNat (fitMantissa x.d l.mw)
    if x.rem ≠ 0 ∧ den ≤ 2 * x.rem then incrementPattern l s p else p

/-- The pattern of a decimal value with sign s (R275 to R283). -/
def encodeDecimal (l : Layout) (s : Bool) (x : Decimal) : Container :=
  if x.num = 0 then construct l (.zero s) else assemble l s x.den (expand l.mw x)

/-- encode(t): the pattern of the text t under the layout l, or the TEXT error (R272 to R284). -/
def encodeText (l : Layout) (t : List Byte) : Except ErrorCode Container :=
  let u := normalize t
  let s := startsMinus u && l.sw == 1
  if contains u textInf then .ok (construct l (.infinity s))
  else if contains u textNan then .ok (construct l (.nan false .empty))
  else
    match parseDecimal u with
    | none => .error .text
    | some x => .ok (encodeDecimal l s x)

end Sys2Proof.Machine
end

