-- ==== Sys2Proof/Machine/Decoder.lean ====
section
/-! DEFINITION. decode(t, P): bit-string text to decimal numeral, in binary64 (44_decode.md R312 to R320). -/

namespace Sys2Proof.Machine

/-- "0.0" (R313). -/
def tokenZero : List Byte := [0x30, 0x2E, 0x30]

/-- "Infinity" (R313). -/
def tokenInfinity : List Byte := [0x49, 0x6E, 0x66, 0x69, 0x6E, 0x69, 0x74, 0x79]

/-- "NaN" (R313). -/
def tokenNaN : List Byte := [0x4E, 0x61, 0x4E]

/-- A text with "-" before it when the sign is 1 (R313, R318, R319). -/
def withSign (s : Bool) (t : List Byte) : List Byte := if s then charMinus :: t else t

/-- Step 1 (R312): the container a text of exactly W characters '0' and '1' shows; LENGTH is checked before BITS. -/
def parsePattern (w : Nat) (t : List Byte) : Except ErrorCode Container :=
  if t.length ≠ w then .error .length
  else if ¬isBitText t then .error .bits
  else .ok (parseBits t)

/-- Step 2 (R313): the literal token of a class, where it has one. -/
def classToken : ClassCode → Option (List Byte)
  | .zeroNeg => some (withSign true tokenZero)
  | .zeroPos => some tokenZero
  | .infNeg => some (withSign true tokenInfinity)
  | .infPos => some tokenInfinity
  | .nanQuiet | .nanSignaling => some tokenNaN
  | .spsub | .lsub | .spnorm | .lnorm | .llt1 | .one | .sgt1 | .none => none

/-- Step 4 (R315): 1 plus the table entry of each mantissa bit that is 1, MSB first, each addition rounded to binary64. -/
def mantissaMagnitude (mw : Nat) (p : Container) : Binary64 :=
  (List.range mw).foldl (fun acc i => if p.bit (mw - 1 - i) then acc.add (nptRead i) else acc) .one

/-- Steps 3 to 5 (R314 to R317): |V|, with every non-special pattern read as normalized (R321). -/
def patternMagnitude (l : Layout) (p : Container) : Binary64 :=
  (mantissaMagnitude l.mw p).mul (pow2 ((l.expf p : Int) - l.bias))

/-! Formatting. -/

/-- The character of a decimal digit (R318). -/
def digitChar (d : Nat) : Byte := BitVec.ofNat 8 (0x30 + d)

/-- The last `len` decimal digits of n, zero-padded on the left, before the text `acc` (R318). -/
def paddedDecimal : (len n : Nat) → List Byte → List Byte
  | 0, _, acc => acc
  | len + 1, n, acc => paddedDecimal len (n / 10) (digitChar (n % 10) :: acc)

/-- decimal(n): no leading zeros, and "0" for 0 (R318). A number has at most log2(n) + 1 decimal digits. -/
def decimalText (n : Nat) : List Byte :=
  match (paddedDecimal (Nat.log2 n + 1) n []).dropWhile (· == charZero) with
  | [] => [charZero]
  | t => t

/-- A text with its trailing '0's removed (R318). -/
def stripZeros (t : List Byte) : List Byte := (t.reverse.dropWhile (· == charZero)).reverse

/-- frac: the P-digit text of fp without trailing '0's, and "0" when nothing is left (R318). -/
def fractionText (p fp : Nat) : List Byte :=
  match stripZeros (paddedDecimal p fp []) with
  | [] => [charZero]
  | t => t

/-- The text of a finite |V| of `units` units at precision P (R318). -/
def formatFinite (s : Bool) (p units : Nat) : List Byte :=
  let n := roundHalfEven (units * 10 ^ p) unitsPerOne
  withSign s (decimalText (n / 10 ^ p) ++ charPoint :: fractionText p (n % 10 ^ p))

/-- The text of ±|V| (R318, R319). -/
def formatValue (s : Bool) (p : Nat) : Binary64 → List Byte
  | .finite units => formatFinite s p units
  | .infinite => withSign s tokenInfinity

/-- The text of a pattern of size W (R313 to R319). -/
def decodePattern (l : Layout) (prec : Nat) (p : Container) : List Byte :=
  match classToken (classify l p) with
  | some t => t
  | none => formatValue (l.sgn p) prec (patternMagnitude l p)

/-- decode(t, P): the numeral of the bit string t under the layout l, or an error (R312 to R320). -/
def decodeText (l : Layout) (prec : Nat) (t : List Byte) : Except ErrorCode (List Byte) :=
  match parsePattern l.width t with
  | .error e => .error e
  | .ok p => .ok (decodePattern l prec p)

end Sys2Proof.Machine
end

