-- ==== Sys2Proof/Machine/CodecCommands.lean ====
section
/-! DEFINITION. The conversion commands ENCODE and DECODE (43_encode.md R271, 44_decode.md R311). -/

namespace Sys2Proof.Machine

/-- ENCODE (R271): the pattern to c[CD] and its text to TOUT; LAYOUT, then TEXT. -/
def execEncode (cd : CReg) (s : State) : Host.Outcome State Fault Refusal :=
  settle s
    (match s.layoutOr with
     | .error e => .error e
     | .ok l =>
       match encodeText l s.tinText with
       | .error e => .error e
       | .ok p => .ok ((s.setC cd p).putTout p.text))

/-- DECODE (R311): the numeral to TOUT; LAYOUT, then LENGTH, then BITS. -/
def execDecode (s : State) : Host.Outcome State Fault Refusal :=
  settle s
    (match s.layoutOr with
     | .error e => .error e
     | .ok l =>
       match decodeText l s.prec.toNat s.tinText with
       | .error e => .error e
       | .ok t => .ok (s.putTout t))

end Sys2Proof.Machine
end

