-- ==== Sys2Proof/Machine/LayoutCommands.lean ====
section
/-! DEFINITION. The layout commands LSEL and LSET (41_layout.md R209, R210). Only they write LR (R37). -/

namespace Sys2Proof.Machine

/-- LSEL (R209): LAYOUT when the ROM has no entry IDX. -/
def execLsel (idx : Nat) (s : State) : Host.Outcome State Fault Refusal :=
  settle s
    (match layoutRom[idx]? with
     | none => .error .layout
     | some l => .ok { s with lr := .load l idx })

/-- LSET (R210): the bias is DIN0; LAYOUT when the record is not valid (R211). -/
def execLset (sw : Bool) (ew mw : Nat) (s : State) : Host.Outcome State Fault Refusal :=
  let l : Layout := ⟨sw.toNat, ew, mw, s.din0.toNat⟩
  settle s (if l.valid then .ok { s with lr := .load l 0xF } else .error .layout)

end Sys2Proof.Machine
end

