-- ==== Sys2Proof/Machine/SpecialCommands.lean ====
section
/-! DEFINITION. The CONSTRUCT commands and CLASSIFY (42_special_values.md R238, R242). -/

namespace Sys2Proof.Machine

/-- c[CD] <- construct(v), or LAYOUT while LR.VALID = 0 (R238). -/
def constructTo (s : State) (cd : CReg) (v : SpecialValue) : Except ErrorCode State :=
  match s.layoutOr with
  | .error e => .error e
  | .ok l => .ok (s.setC cd (construct l v))

/-- CONSTRUCT.ZERO (R238, R234). -/
def execConstructZero (cd : CReg) (sgn : Bool) (s : State) : Host.Outcome State Fault Refusal :=
  settle s (constructTo s cd (.zero sgn))

/-- CONSTRUCT.INF (R238, R235). -/
def execConstructInf (cd : CReg) (sgn : Bool) (s : State) : Host.Outcome State Fault Refusal :=
  settle s (constructTo s cd (.infinity sgn))

/-- CONSTRUCT.NAN (R238, R236): the payload is c[CA], read before c[CD] is written. -/
def execConstructNan (cd : CReg) (sig : Bool) (ca : CReg) (s : State) : Host.Outcome State Fault Refusal :=
  settle s (constructTo s cd (.nan sig (s.getC ca)))

/-- CONSTRUCT.SPSUB (R238, R237). -/
def execConstructSpsub (cd : CReg) (s : State) : Host.Outcome State Fault Refusal :=
  settle s (constructTo s cd .spsub)

/-- CONSTRUCT.LSUB (R238, R237). -/
def execConstructLsub (cd : CReg) (s : State) : Host.Outcome State Fault Refusal :=
  settle s (constructTo s cd .lsub)

/-- CONSTRUCT.SPNORM (R238, R237). -/
def execConstructSpnorm (cd : CReg) (s : State) : Host.Outcome State Fault Refusal :=
  settle s (constructTo s cd .spnorm)

/-- CONSTRUCT.LNORM (R238, R237). -/
def execConstructLnorm (cd : CReg) (s : State) : Host.Outcome State Fault Refusal :=
  settle s (constructTo s cd .lnorm)

/-- CONSTRUCT.LLT1 (R238, R237). -/
def execConstructLlt1 (cd : CReg) (s : State) : Host.Outcome State Fault Refusal :=
  settle s (constructTo s cd .llt1)

/-- CONSTRUCT.ONE (R238, R237). -/
def execConstructOne (cd : CReg) (s : State) : Host.Outcome State Fault Refusal :=
  settle s (constructTo s cd .one)

/-- CONSTRUCT.SGT1 (R238, R237). -/
def execConstructSgt1 (cd : CReg) (s : State) : Host.Outcome State Fault Refusal :=
  settle s (constructTo s cd .sgt1)

/-- The result of classifying p under l: RESULT.CLASS, and the payload to c[CD] for a NaN (R242). -/
def putClass (s : State) (l : Layout) (cd : CReg) (p : Container) : State :=
  if (classify l p).isNaN then (s.setClass (classify l p)).setC cd (nanPayload l p) else s.setClass (classify l p)

/-- CLASSIFY (R242): LAYOUT, then LENGTH. -/
def execClassify (cd ca : CReg) (s : State) : Host.Outcome State Fault Refusal :=
  settle s
    (match s.layoutOr with
     | .error e => .error e
     | .ok l => if (s.getC ca).size ≠ l.width then .error .length else .ok (putClass s l cd (s.getC ca)))

end Sys2Proof.Machine
end

