-- ==== Sys2Proof/Machine/Dispatch.lean ====
section
/-! DEFINITION. One arm per command: which meaning it has (R114). -/

namespace Sys2Proof.Machine

/-- The engine performs one command (R384(b)). -/
def exec (i : Instr) (s : State) : Host.Outcome State Fault Refusal :=
  match i with
  | .all0 cd n => Sys2Proof.Machine.execAll0 cd n s
  | .all1 cd n => Sys2Proof.Machine.execAll1 cd n s
  | .fromu8 cd n => Sys2Proof.Machine.execFromu8 cd n s
  | .fromu16 cd n => Sys2Proof.Machine.execFromu16 cd n s
  | .fromu32 cd n => Sys2Proof.Machine.execFromu32 cd n s
  | .fromu64 cd n => Sys2Proof.Machine.execFromu64 cd n s
  | .fromu128 cd n => Sys2Proof.Machine.execFromu128 cd n s
  | .get ca n => Sys2Proof.Machine.execGet ca n s
  | .set cd n p => Sys2Proof.Machine.execSet cd n p s
  | .concat cd ca cb => Sys2Proof.Machine.execConcat cd ca cb s
  | .resizeLo cd ca n => Sys2Proof.Machine.execResizeLo cd ca n s
  | .resizeHi cd ca n => Sys2Proof.Machine.execResizeHi cd ca n s
  | .getsub cd ca lo hi => Sys2Proof.Machine.execGetsub cd ca lo hi s
  | .range0 ca lo hi => Sys2Proof.Machine.execRange0 ca lo hi s
  | .range1 ca lo hi => Sys2Proof.Machine.execRange1 ca lo hi s
  | .parse cd => Sys2Proof.Machine.execParse cd s
  | .parseN cd n => Sys2Proof.Machine.execParseN cd n s
  | .render ca => Sys2Proof.Machine.execRender ca s
  | .lsel idx => Sys2Proof.Machine.execLsel idx s
  | .lset sw ew mw => Sys2Proof.Machine.execLset sw ew mw s
  | .constructZero cd sgn => Sys2Proof.Machine.execConstructZero cd sgn s
  | .constructInf cd sgn => Sys2Proof.Machine.execConstructInf cd sgn s
  | .constructNan cd sig ca => Sys2Proof.Machine.execConstructNan cd sig ca s
  | .constructSpsub cd => Sys2Proof.Machine.execConstructSpsub cd s
  | .constructLsub cd => Sys2Proof.Machine.execConstructLsub cd s
  | .constructSpnorm cd => Sys2Proof.Machine.execConstructSpnorm cd s
  | .constructLnorm cd => Sys2Proof.Machine.execConstructLnorm cd s
  | .constructLlt1 cd => Sys2Proof.Machine.execConstructLlt1 cd s
  | .constructOne cd => Sys2Proof.Machine.execConstructOne cd s
  | .constructSgt1 cd => Sys2Proof.Machine.execConstructSgt1 cd s
  | .classify cd ca => Sys2Proof.Machine.execClassify cd ca s
  | .encode cd => Sys2Proof.Machine.execEncode cd s
  | .decode => Sys2Proof.Machine.execDecode s

end Sys2Proof.Machine
end

