-- ==== Sys2Proof/Machine/Window.lean ====
section
/-! DEFINITION. The register window (20_memory.md): which register an offset names, what a read returns, what a write does, the
reset input (R381), and the engine performing the command it holds (R384). -/

namespace Sys2Proof.Machine

/-! Addresses. -/

/-- The window offset of a host address, where it lies in BASE .. BASE+0x3FFF (R71, R12). -/
def windowOffset (addr : Nat) : Option (BitVec 14) :=
  if Config.base ≤ addr ∧ addr < Config.base + Config.windowBytes then some (BitVec.ofNat 14 (addr - Config.base)) else none

/-- An access is legal when it is 32 bits wide and its offset is a multiple of 4 (R73). -/
def legalAccess (off : BitVec 14) (bytes : Nat) : Bool := bytes == 4 && off.toNat % 4 == 0

/-- The container register with index k (R50). -/
def cregOfIndex (k : Nat) : CReg := CReg.ofField k

/-- The registers at offsets 0x0000 to 0x00FF (R72). -/
def controlRegAt (off : Nat) : WindowReg :=
  match off with
  | 0x00 => .id | 0x04 => .caps | 0x08 => .cmd | 0x0C => .status
  | 0x10 => .result | 0x14 => .prec | 0x18 => .lcfg | 0x1C => .lbias
  | 0x20 => .lwidth | 0x24 => .lsign | 0x28 => .lexp | 0x2C => .lman
  | 0x30 => .lcsign | 0x34 => .lcexp | 0x38 => .lcman
  | 0x40 => .din0 | 0x44 => .din1 | 0x48 => .din2 | 0x4C => .din3
  | 0x50 => .tinLen | 0x54 => .toutLen
  | _ => .unmapped

/-- The container view at 0x0100 + 0x40·k + r (R72, R50): r = 0 is CSIZE[k], r = 4 + 4·j is CWORD[k][j] for j = 0..7. -/
def containerRegAt (k r : Nat) : WindowReg :=
  if r = 0 then .csize (cregOfIndex k) else if r ≤ 0x20 then .cword (cregOfIndex k) ((r - 4) / 4) else .unmapped

/-- What a 32-bit aligned window offset names (R72, R80). -/
def windowRegAt (off : Nat) : WindowReg :=
  if off < 0x0100 then controlRegAt off
  else if off < 0x0300 then containerRegAt ((off - 0x0100) / 0x40) ((off - 0x0100) % 0x40)
  else if off < 0x1000 then .unmapped
  else if off < 0x2000 then .tin (off - 0x1000)
  else if off < 0x3000 then .tout (off - 0x2000)
  else .unmapped

/-! Reads. -/

/-- Four bytes of a text buffer as one word, byte i in byte lane i mod 4 (R78). -/
def bufferWord (m : Memory) (i : Nat) : Word := m.read (i + 3) ++ m.read (i + 2) ++ m.read (i + 1) ++ m.read i

/-- Storage word j of a container: its bits 32j+31 down to 32j (R32, R50). -/
def storageWord (c : Container) (j : Nat) : Word := BitVec.ofNat 32 (sub c (32 * j) (32 * j + 32)).bits

/-- ID (R48). -/
def idWord : Word := 0x46504344

/-- CAPS (R48): [15:0] CAP, [23:16] NUM_CR, [31:24] the number of ROM layouts. -/
def capsWord : Word := BitVec.ofNat 32 (Config.cap + Config.numCr * 2 ^ 16 + layoutRom.length * 2 ^ 24)

/-- The value a register reads as (R37, R38, R41 to R50, R75); a read changes nothing (R76). -/
def readReg (s : State) : WindowReg → Word
  | .id => idWord
  | .caps => capsWord
  | .cmd => 0
  | .status => statusWord s
  | .result => resultWord s
  | .prec => s.prec.setWidth 32
  | .lcfg => lcfgWord s.lr
  | .lbias => lbiasWord s.lr
  | .lwidth => lwidthWord s.lr
  | .lsign => lsignWord s.lr
  | .lexp => lexpWord s.lr
  | .lman => lmanWord s.lr
  | .lcsign => lcsignWord s.lr
  | .lcexp => lcexpWord s.lr
  | .lcman => lcmanWord s.lr
  | .din0 => s.din0
  | .din1 => s.din1
  | .din2 => s.din2
  | .din3 => s.din3
  | .tinLen => s.tinLen.setWidth 32
  | .toutLen => s.toutLen.setWidth 32
  | .csize k => BitVec.ofNat 32 (s.getC k).size
  | .cword k j => storageWord (s.getC k) j
  | .tin i => bufferWord s.tin i
  | .tout i => bufferWord s.tout i
  | .unmapped => 0

/-- The registers a command may write, which read as any value while the engine is busy (R386). -/
def WindowReg.isResult : WindowReg → Bool
  | .result | .tout _ | .toutLen | .lcfg | .lbias | .lwidth | .lsign | .lexp | .lman | .lcsign | .lcexp | .lcman => true
  | .csize _ | .cword _ _ => true
  | .id | .caps | .cmd | .status | .prec | .din0 | .din1 | .din2 | .din3 | .tinLen | .tin _ | .unmapped => false

/-- The state with the bus's answer recorded. -/
def State.respond (s : State) (r : BusResponse) : State := { s with response := some r }

/-- A refused access (R74): a bus error response, no other change of the block; what the host then goes on to do is the open
BUS_ERROR_REACTION, a free value drawn at each refused access. -/
def refuseAccess (s : State) (access : HostEvent) : State :=
  { s.respond .busError with pending := Config.busErrorReaction access s, draws := s.draws + 1 }

/-- A load of the host (R73, R74, R76, R381, R386). -/
def hostRead (s : State) (off : BitVec 14) (bytes : Nat) : State :=
  if ¬legalAccess off bytes then refuseAccess s (.read off bytes)
  else if s.resetLine then s.respond (.data 0)
  else if s.isBusy && (windowRegAt off.toNat).isResult then
    { s.respond (.data (Config.busyRead (windowRegAt off.toNat) s)) with draws := s.draws + 1 }
  else s.respond (.data (readReg s (windowRegAt off.toNat)))

/-! Writes. -/

/-- The registers whose writes are dropped while the engine is busy: CMD and the operand registers (R75, R385). -/
def WindowReg.isOperand : WindowReg → Bool
  | .cmd | .prec | .din0 | .din1 | .din2 | .din3 | .tinLen | .tin _ => true
  | .id | .caps | .status | .result | .lcfg | .lbias | .lwidth | .lsign | .lexp | .lman | .lcsign | .lcexp | .lcman => false
  | .toutLen | .csize _ | .cword _ _ | .tout _ | .unmapped => false

/-- An accepted CMD write (R31, R44, R384(a)): the engine is `Busy(w)`, for the latency LAT leaves open (R389). -/
def startCommand (s : State) (w : Word) : State :=
  { s with engine := .busy w, wait := Config.latency w s, draws := s.draws + 1 }

/-- The TIN_LEN value a write of v stores: min(v[12:0], 4096) (R41). -/
def tinLenOf (v : Word) : BitVec 13 := BitVec.ofNat 13 (min (v.extractLsb' 0 13).toNat Config.textMax)

/-- Byte lane n of a word (R78). -/
def byteLane (v : Word) (n : Nat) : Byte := v.extractLsb' (8 * n) 8

/-- Four bytes of a text buffer replaced by the byte lanes of a word (R78). -/
def writeBufferWord (m : Memory) (i : Nat) (v : Word) : Memory :=
  (((m.write i (byteLane v 0)).write (i + 1) (byteLane v 1)).write (i + 2) (byteLane v 2)).write (i + 3) (byteLane v 3)

/-- A write that reaches its register (R41, R43 to R46, R75): read-only and unmapped ones ignore it. -/
def writeReg (s : State) (r : WindowReg) (v : Word) : State :=
  match r with
  | .cmd => startCommand s v
  | .status => s.writeStatus v
  | .prec => { s with prec := v.setWidth 12 }
  | .din0 => { s with din0 := v }
  | .din1 => { s with din1 := v }
  | .din2 => { s with din2 := v }
  | .din3 => { s with din3 := v }
  | .tinLen => { s with tinLen := tinLenOf v }
  | .tin i => { s with tin := writeBufferWord s.tin i v }
  | .id | .caps | .result | .lcfg | .lbias | .lwidth | .lsign | .lexp | .lman | .lcsign | .lcexp | .lcman => s
  | .toutLen | .csize _ | .cword _ _ | .tout _ | .unmapped => s

/-- A store of the host (R73 to R76, R381, R385). -/
def hostWrite (s : State) (off : BitVec 14) (bytes : Nat) (v : Word) : State :=
  if ¬legalAccess off bytes then refuseAccess s (.write off bytes v)
  else if s.resetLine then s.respond .done
  else if s.isBusy && (windowRegAt off.toNat).isOperand then s.setOverrun.respond .done
  else (writeReg s (windowRegAt off.toNat) v).respond .done

/-! Polling, reset, and the engine. -/

/-- One STATUS read of the host's WAIT: it goes on polling while BUSY reads 1 (R122, R387); while reset is asserted the read
returns 0 (R381). -/
def hostPoll (s : State) : State :=
  if s.resetLine then s.respond (.data 0)
  else if s.isBusy then { s.respond (.data (statusWord s)) with pending := .poll :: s.pending }
  else s.respond (.data (statusWord s))

/-- Every piece of the block's state at its reset value (R52, R381): a command in progress is abandoned. What the outside does
next and the counter of free values are no state of the block. -/
def State.resetTo (s : State) (line : Bool) : State :=
  { State.reset with resetLine := line, pending := s.pending, draws := s.draws }

/-- One event of the outside (R82, R381). -/
def performEvent (e : HostEvent) (s : State) : State :=
  match e with
  | .read off bytes => hostRead s off bytes
  | .write off bytes v => hostWrite s off bytes v
  | .poll => hostPoll s
  | .assertReset => s.resetTo true
  | .releaseReset => if s.resetLine then s.resetTo false else s

/-- The outside does the next thing it has to do; a host with nothing to do leaves the block as it is. -/
def hostStep (s : State) : State :=
  match s.pending with
  | [] => s
  | e :: rest => performEvent e { s with pending := rest }

/-- The engine performs the command word it holds, at one instant (R384(b)); an illegal word is `raise Error(ILLEGAL)` (R116). -/
def runCommand (w : Word) (s : State) : Host.Outcome State Fault Refusal :=
  match decode w with
  | .ok i => exec i s
  | .error _ => .next (raiseError .illegal s)

/-- The instant of the command has come: its latency has run out, or the host has nothing more to do (R384(d): the instant comes
after finitely many host accesses). -/
def instantReached (s : State) : Bool := s.wait == 0 || s.pending.isEmpty

/-- One step of the machine: while reset is asserted or the engine is `Idle`, the outside acts; while the engine is `Busy(w)`,
it performs w at its instant, and until then a host access passes. -/
def machineStep (s : State) : Host.Outcome State Fault Refusal :=
  if s.resetLine then .next (hostStep s)
  else
    match s.engine with
    | .idle => .next (hostStep s)
    | .busy w => if instantReached s then runCommand w s else .next (hostStep { s with wait := s.wait - 1 })

/-- The engine holding the command word w, with its instant reached: the next step performs w. -/
def State.atCommand (s : State) (w : Word) : State := { s with engine := .busy w, wait := 0, resetLine := false }

end Sys2Proof.Machine
end

