-- ==== Sys2Proof/Machine/Step.lean ====
section
/-! DEFINITION. The step function, and where it finds its next command. -/

namespace Sys2Proof.Machine

/-- One step of the machine (R31, R82, R384). -/
def step (s : State) : Host.Outcome State Fault Refusal := machineStep s

/-- FPCODEC fetches nothing (R36): its next command is the word of `Busy(w)` (R31). This is s with the engine holding the command
word w (its bits at and above `nbits` 0) and its instant reached, so that the next step performs it. -/
def State.withFetchWord (s : State) (nbits w : Nat) : State := s.atCommand (BitVec.ofNat 32 (w % 2 ^ nbits))

end Sys2Proof.Machine
end

