-- ==== Sys2Proof/Machine/Assembler.lean ====
section
/-! DEFINITION. The notations of 30_encoding.md section 5: assembler text (R120), the pseudo-instructions (R121) and the host
macros (R122), as commands and as the bus accesses of the host. They add nothing to what the machine does. -/

namespace Sys2Proof.Machine

/-- "c0" to "c7" (R120). -/
def cregAsm (r : CReg) : String := "c" ++ toString r.toField

/-- Operands separated by commas (R120). -/
def asmLine (mnemonic : String) (operands : List String) : String :=
  if operands.isEmpty then mnemonic else mnemonic ++ " " ++ ", ".intercalate operands

/-- A one-bit operand (R120). -/
def flagAsm (b : Bool) : String := toString b.toNat

/-- The assembler line of a command (R120). -/
def instrAsm : Instr → String
  | .all0 cd n => asmLine "ALL0" [cregAsm cd, toString n]
  | .all1 cd n => asmLine "ALL1" [cregAsm cd, toString n]
  | .fromu8 cd n => asmLine "FROMU.8" [cregAsm cd, toString n]
  | .fromu16 cd n => asmLine "FROMU.16" [cregAsm cd, toString n]
  | .fromu32 cd n => asmLine "FROMU.32" [cregAsm cd, toString n]
  | .fromu64 cd n => asmLine "FROMU.64" [cregAsm cd, toString n]
  | .fromu128 cd n => asmLine "FROMU.128" [cregAsm cd, toString n]
  | .get ca n => asmLine "GET" [cregAsm ca, toString n]
  | .set cd n p => asmLine "SET" [cregAsm cd, toString n, flagAsm p]
  | .concat cd ca cb => asmLine "CONCAT" [cregAsm cd, cregAsm ca, cregAsm cb]
  | .resizeLo cd ca n => asmLine "RESIZE.LO" [cregAsm cd, cregAsm ca, toString n]
  | .resizeHi cd ca n => asmLine "RESIZE.HI" [cregAsm cd, cregAsm ca, toString n]
  | .getsub cd ca lo hi => asmLine "GETSUB" [cregAsm cd, cregAsm ca, toString lo, toString hi]
  | .range0 ca lo hi => asmLine "RANGE0" [cregAsm ca, toString lo, toString hi]
  | .range1 ca lo hi => asmLine "RANGE1" [cregAsm ca, toString lo, toString hi]
  | .parse cd => asmLine "PARSE" [cregAsm cd]
  | .parseN cd n => asmLine "PARSE.N" [cregAsm cd, toString n]
  | .render ca => asmLine "RENDER" [cregAsm ca]
  | .lsel idx => asmLine "LSEL" [toString idx]
  | .lset sw ew mw => asmLine "LSET" [flagAsm sw, toString ew, toString mw]
  | .constructZero cd sgn => asmLine "CONSTRUCT.ZERO" [cregAsm cd, flagAsm sgn]
  | .constructInf cd sgn => asmLine "CONSTRUCT.INF" [cregAsm cd, flagAsm sgn]
  | .constructNan cd sig ca => asmLine "CONSTRUCT.NAN" [cregAsm cd, flagAsm sig, cregAsm ca]
  | .constructSpsub cd => asmLine "CONSTRUCT.SPSUB" [cregAsm cd]
  | .constructLsub cd => asmLine "CONSTRUCT.LSUB" [cregAsm cd]
  | .constructSpnorm cd => asmLine "CONSTRUCT.SPNORM" [cregAsm cd]
  | .constructLnorm cd => asmLine "CONSTRUCT.LNORM" [cregAsm cd]
  | .constructLlt1 cd => asmLine "CONSTRUCT.LLT1" [cregAsm cd]
  | .constructOne cd => asmLine "CONSTRUCT.ONE" [cregAsm cd]
  | .constructSgt1 cd => asmLine "CONSTRUCT.SGT1" [cregAsm cd]
  | .classify cd ca => asmLine "CLASSIFY" [cregAsm cd, cregAsm ca]
  | .encode cd => asmLine "ENCODE" [cregAsm cd]
  | .decode => asmLine "DECODE" []

/-- The names `LSEL name` accepts, in the order of the ROM (R120, R208). -/
def layoutNames : List String :=
  ["float16", "float32", "float64", "float128", "float256", "fp8-e4m3", "fp8-e5m2", "bfloat16", "tensorfloat32"]

/-- `CLR cd` (R121). -/
def pseudoClr (cd : CReg) : List Instr := [.all0 cd 0]

/-- `CONCATI cd, cb` (R121). -/
def pseudoConcati (cd cb : CReg) : List Instr := [.concat cd cd cb]

/-- `MOV cd, ca` (R121, C10): no command at all when cd = ca. -/
def pseudoMov (cd ca : CReg) : List Instr := if cd = ca then [] else [.all0 cd 0, .concat cd ca cd]

/-- `MemRead(addr, 4)` and `MemWrite(addr, 4, v)` at a host address in the window (R15, R71). -/
def memRead (addr : Nat) : Option HostEvent := (windowOffset addr).map fun off => .read off 4

/-- `MemWrite(addr, 4, v)` at a host address in the window (R15, R71). -/
def memWrite (addr : Nat) (v : Word) : Option HostEvent := (windowOffset addr).map fun off => .write off 4 v

/-- `WR off, v` (R122). -/
def macroWr (off : BitVec 14) (v : Word) : List HostEvent := [.write off 4 v]

/-- `RD off` (R122). -/
def macroRd (off : BitVec 14) : List HostEvent := [.read off 4]

/-- The bytes of a text packed into words, 0 past the end (R122, R78). -/
def packText : List Byte → List Word
  | [] => []
  | [a] => [(0 : Byte) ++ (0 : Byte) ++ (0 : Byte) ++ a]
  | [a, b] => [(0 : Byte) ++ (0 : Byte) ++ b ++ a]
  | [a, b, c] => [(0 : Byte) ++ c ++ b ++ a]
  | a :: b :: c :: d :: t => (d ++ c ++ b ++ a) :: packText t

/-- Word stores from TIN offset 0x1000 + 4·i on (R122). -/
def storeWords (i : Nat) : List Word → List HostEvent
  | [] => []
  | v :: ws => .write (BitVec.ofNat 14 (0x1000 + 4 * i)) 4 v :: storeWords (i + 1) ws

/-- `TEXT "s"` (R122). -/
def macroText (t : List Byte) : List HostEvent :=
  storeWords 0 (packText t) ++ [.write 0x0050 4 (BitVec.ofNat 32 t.length)]

/-- `DIN v` (R122). -/
def macroDin (v : BitVec 128) : List HostEvent :=
  [.write 0x0040 4 (v.extractLsb' 0 32), .write 0x0044 4 (v.extractLsb' 32 32),
   .write 0x0048 4 (v.extractLsb' 64 32), .write 0x004C 4 (v.extractLsb' 96 32)]

/-- `SETPREC p` (R122). -/
def macroSetprec (p : Word) : List HostEvent := [.write 0x0014 4 p]

/-- `WAIT` (R122). -/
def macroWait : List HostEvent := [.poll]

/-- `DO <word>` for any command word (R122). -/
def macroDoWord (w : Word) : List HostEvent := .write 0x0008 4 w :: macroWait

/-- `DO <command>` (R122). -/
def macroDo (i : Instr) : List HostEvent := macroDoWord (Sys2Proof.encode i)

/-- `OUT` once L is known (R122): TOUT_LEN, then the words that hold TOUT bytes 0 .. L − 1. -/
def macroOut (len : Nat) : List HostEvent :=
  .read 0x0054 4 :: (List.range ((len + 3) / 4)).map fun i => .read (BitVec.ofNat 14 (0x2000 + 4 * i)) 4

end Sys2Proof.Machine
end

