-- ==== Sys2Proof/Safety.lean ====
section
/-! DEFINITION. The invariant that every run keeps, and what a command may write (R35, R37, R42, R47). -/

namespace Sys2Proof.Machine

/-- LR holds a valid layout that came from the ROM or from LSET, or it is as reset left it (R37, R211). -/
def LayoutReg.ok (r : LayoutReg) : Prop :=
  (r.valid = true ∧ r.layout.valid ∧ (r.src = 0xF ∨ layoutRom[r.src.toNat]? = some r.layout)) ∨ r = .reset

/-- The invariant of the machine: what is true of every state a run reaches, and what a statement may assume of one. -/
structure State.Inv (s : State) : Prop where
  /-- Every container has a legal size and zeros above it (R32, R33). -/
  regs_wf : ∀ k, (s.getC k).wf
  /-- LR only ever holds a valid layout (R37). -/
  lr_ok : s.lr.ok
  /-- TIN is in canonical form. -/
  tin_wf : s.tin.wf = true
  /-- TIN_LEN is at most TEXT_MAX (R41). -/
  tinLen_le : s.tinLen.toNat ≤ Config.textMax
  /-- TOUT is in canonical form. -/
  tout_wf : s.tout.wf = true
  /-- TOUT_LEN is at most TEXT_MAX (R42). -/
  toutLen_le : s.toutLen.toNat ≤ Config.textMax
  /-- TOUT is 0 beyond its length (R42). -/
  tout_tail : ∀ a, s.toutLen.toNat ≤ a → s.tout.read a = 0
  /-- While reset is asserted the block is as reset leaves it (R381). -/
  reset_held : s.resetLine = true →
    s = { State.reset with resetLine := true, draws := s.draws, pending := s.pending, response := s.response }

end Sys2Proof.Machine

namespace Sys2Proof

/-- The container register a command writes on success, if any (R35); CLASSIFY writes it only for a NaN (R242). -/
def Instr.destination : Instr → Option CReg
  | .all0 cd _ | .all1 cd _ => some cd
  | .fromu8 cd _ | .fromu16 cd _ | .fromu32 cd _ | .fromu64 cd _ | .fromu128 cd _ => some cd
  | .set cd _ _ | .concat cd _ _ | .resizeLo cd _ _ | .resizeHi cd _ _ | .getsub cd _ _ _ => some cd
  | .parse cd | .parseN cd _ => some cd
  | .constructZero cd _ | .constructInf cd _ | .constructNan cd _ _ => some cd
  | .constructSpsub cd | .constructLsub cd | .constructSpnorm cd | .constructLnorm cd => some cd
  | .constructLlt1 cd | .constructOne cd | .constructSgt1 cd => some cd
  | .classify cd _ | .encode cd => some cd
  | .get _ _ | .range0 _ _ _ | .range1 _ _ _ | .render _ | .lsel _ | .lset _ _ _ | .decode => none

/-- The commands that write LR (R37). -/
def Instr.writesLayout : Instr → Bool
  | .lsel _ | .lset _ _ _ => true
  | _ => false

/-- The commands that write TOUT and TOUT_LEN (R42). -/
def Instr.writesTout : Instr → Bool
  | .render _ | .encode _ | .decode => true
  | _ => false

/-- The commands that write RESULT.BOOL (R47). -/
def Instr.writesBool : Instr → Bool
  | .get _ _ | .range0 _ _ _ | .range1 _ _ _ => true
  | _ => false

/-- The commands that write RESULT.CLASS (R47). -/
def Instr.writesClass : Instr → Bool
  | .classify _ _ => true
  | _ => false

end Sys2Proof
end

