-- ==== Sys2Proof/Certificates/Slice0/Obligations.lean ====
section
/-! DEFINITION. The statements about FPCODEC, each from the numbered rules of spec/. -/

namespace Sys2Proof.Claims

open Sys2Proof Sys2Proof.Machine

/-! What a command leaves as it was, said through the model's reads. -/

/-- What no command writes: TIN, TIN_LEN, DIN, PREC and OVR (R41, R43, R45, R49), and what is outside the commands. -/
def Unwritten (s t : State) : Prop :=
  (∀ a, t.tin.read a = s.tin.read a) ∧ t.tinLen = s.tinLen ∧
  t.din0 = s.din0 ∧ t.din1 = s.din1 ∧ t.din2 = s.din2 ∧ t.din3 = s.din3 ∧ t.prec = s.prec ∧ t.ovr = s.ovr ∧
  t.resetLine = s.resetLine ∧ t.wait = s.wait ∧ t.draws = s.draws ∧ t.pending = s.pending ∧ t.response = s.response

/-- Every container register is as before. -/
def SameRegs (s t : State) : Prop := ∀ k, t.getC k = s.getC k

/-- Every container register but `cd` is as before. -/
def SameRegsBut (cd : CReg) (s t : State) : Prop := ∀ k, k ≠ cd → t.getC k = s.getC k

/-- Every byte of TOUT, and TOUT_LEN, are as before. -/
def SameTout (s t : State) : Prop := (∀ a, t.tout.read a = s.tout.read a) ∧ t.toutLen = s.toutLen

/-- RESULT is as before. -/
def SameResult (s t : State) : Prop := t.resultBool = s.resultBool ∧ t.resultClass = s.resultClass

/-- Success: ERR is 0, ERRS is unchanged, the engine is `Idle` (R352(a), R384(b)). -/
def Succeeded (s t : State) : Prop := t.err = .ok ∧ t.errs = s.errs ∧ t.engine = .idle

/-- Success that writes c[cd] and nothing else. -/
def WroteContainer (cd : CReg) (s t : State) : Prop :=
  Succeeded s t ∧ SameRegsBut cd s t ∧ t.lr = s.lr ∧ SameTout s t ∧ SameResult s t ∧ Unwritten s t

/-- Success that writes RESULT.BOOL and nothing else. -/
def WroteBool (b : Bool) (s t : State) : Prop :=
  Succeeded s t ∧ t.resultBool = b ∧ t.resultClass = s.resultClass ∧ SameRegs s t ∧ t.lr = s.lr ∧ SameTout s t ∧ Unwritten s t

/-- TOUT holds exactly the text `x`: its bytes, then 0, and TOUT_LEN is its length (R42). -/
def ToutHolds (x : List Byte) (t : State) : Prop :=
  (∀ a, t.tout.read a = x.getD a 0) ∧ t.toutLen.toNat = x.length

/-- Success that writes the text `x` to TOUT and nothing else. -/
def WroteTout (x : List Byte) (s t : State) : Prop :=
  Succeeded s t ∧ ToutHolds x t ∧ SameRegs s t ∧ t.lr = s.lr ∧ SameResult s t ∧ Unwritten s t

/-- Success that writes LR and nothing else. -/
def WroteLayout (s t : State) : Prop :=
  Succeeded s t ∧ SameRegs s t ∧ SameTout s t ∧ SameResult s t ∧ Unwritten s t

/-- Success of ENCODE: the pattern ⟨w, bits⟩ in c[cd], its MSB-first text in TOUT, and nothing else (R271). -/
def WrotePattern (cd : CReg) (w bits : Nat) (s t : State) : Prop :=
  Succeeded s t ∧ t.getC cd = ⟨w, bits⟩ ∧ SameRegsBut cd s t ∧
  t.toutLen.toNat = w ∧ (∀ a, w ≤ a → t.tout.read a = 0) ∧
  (∀ a, a < w → t.tout.read a = if bits.testBit (w - 1 - a) then 0x31 else 0x30) ∧
  t.lr = s.lr ∧ SameResult s t ∧ Unwritten s t

/-- Failure with code e: nothing is written but STATUS (R352(b)). -/
def Failed (e : ErrorCode) (s t : State) : Prop :=
  t.err = e ∧ t.errs = true ∧ t.engine = .idle ∧ SameRegs s t ∧ t.lr = s.lr ∧ SameTout s t ∧ SameResult s t ∧ Unwritten s t

/-- A command that starts in `s` fails with code e. -/
def Fails (i : Instr) (s : State) (e : ErrorCode) : Prop := ∃ t, exec i s = .next t ∧ Failed e s t

/-! Operands, said without the model's own functions. -/

/-- Bit j of the 128-bit operand DIN = DIN3 ++ DIN2 ++ DIN1 ++ DIN0 (R43). -/
def dinBit (s : State) (j : Nat) : Bool :=
  if j < 32 then s.din0.getLsbD j else if j < 64 then s.din1.getLsbD (j - 32)
  else if j < 96 then s.din2.getLsbD (j - 64) else s.din3.getLsbD (j - 96)

/-- TIN[0..TIN_LEN − 1] holds a byte that is neither '0' nor '1' (R154). -/
def BadBit (s : State) : Prop := ∃ c, c < s.tinLen.toNat ∧ s.tin.read c ≠ 0x30 ∧ s.tin.read c ≠ 0x31

/-- The container x shows the bit string in TIN MSB first: character c is bit L − 1 − c (R14, R154). -/
def ShowsTin (s : State) (x : Container) : Prop :=
  x.size = s.tinLen.toNat ∧ x.wf ∧
  ∀ c, c < s.tinLen.toNat → x.bit (s.tinLen.toNat - 1 - c) = decide (s.tin.read c = 0x31)

/-- R211, as conditions on numbers. -/
def ValidRecord (sw ew mw bias : Nat) : Prop :=
  sw ≤ 1 ∧ 2 ≤ ew ∧ 2 ≤ mw ∧ sw + ew + mw ≤ 256 ∧ 2 ≤ bias ∧ bias ≤ 2 ^ ew - 2

/-- What a sign argument adds to a pattern: the bit W − 1 when there is a sign field, and nothing otherwise (R206, R233). -/
def signPart (l : Layout) (s : Bool) : Nat := if l.sw = 1 ∧ s = true then 2 ^ (l.ew + l.mw) else 0

/-- The text a command reads: TIN[0..TIN_LEN − 1] (R41). -/
def inputText (s : State) : List Byte := (List.range s.tinLen.toNat).map fun i => s.tin.read i

/-- The texts "inf", "nan", "Infinity" and "NaN" in ASCII (R273, R313). -/
def infBytes : List Byte := [0x69, 0x6E, 0x66]
def nanBytes : List Byte := [0x6E, 0x61, 0x6E]
def infinityToken : List Byte := [0x49, 0x6E, 0x66, 0x69, 0x6E, 0x69, 0x74, 0x79]
def nanToken : List Byte := [0x4E, 0x61, 0x4E]

/-- A text with "-" (0x2D) before it when the sign is negative (R313, R318, R319). -/
def signed (neg : Bool) (x : List Byte) : List Byte := if neg then 0x2D :: x else x

/-- Every byte is an ASCII decimal digit. -/
def AllDigits (x : List Byte) : Prop := ∀ c ∈ x, 0x30 ≤ c.toNat ∧ c.toNat ≤ 0x39

/-- The text u is a numeral of R274: an optional sign '+' (0x2B) or '-' (0x2D), the digits a, and after an optional point (0x2E)
the digits b. -/
def IsNumeral (u : List Byte) (neg : Bool) (a b : List Byte) : Prop :=
  AllDigits (a ++ b) ∧ (a ≠ [] ∨ b ≠ []) ∧
  ∃ sg, ((neg = true ∧ sg = [0x2D]) ∨ (neg = false ∧ (sg = [] ∨ sg = [0x2B]))) ∧
    (u = sg ++ (a ++ 0x2E :: b) ∨ (b = [] ∧ u = sg ++ a))

/-- int(A): the digits' values, each times ten to the number of digits after it; int("") = 0 (R274). -/
def digitsValue : List Byte → Nat
  | [] => 0
  | d :: ds => (d.toNat - 0x30) * 10 ^ ds.length + digitsValue ds

/-- The exact value of a numeral, int(A) + int(B)/10^|B| (R274). -/
def numeralValue (a b : List Byte) : ℚ := digitsValue a + digitsValue b / (10 : ℚ) ^ b.length

/-- TIN holds, after normalization, the numeral with sign `neg` and digits a, b (R272, R274). -/
def TinNumeral (s : State) (neg : Bool) (a b : List Byte) : Prop := IsNumeral (normalize (inputText s)) neg a b

/-- The shape of a numeral that DECODE writes: "-" for a negative sign and nothing for a positive one, digits a with no leading '0'
but for "0" itself, ".", and digits b with no trailing '0' but for "0" itself, at most P of them and at least one (R318). -/
def IsDecimalOutput (x : List Byte) (neg : Bool) (prec : Nat) (a b : List Byte) : Prop :=
  x = signed neg (a ++ 0x2E :: b) ∧ AllDigits (a ++ b) ∧ a ≠ [] ∧ b ≠ [] ∧ b.length ≤ max 1 prec ∧
  (a.head? = some 0x30 → a = [0x30]) ∧ (b.getLast? = some 0x30 → b = [0x30])

/-- The magnitude fields of a W-bit number: exponent and mantissa (R203). -/
def expOf (l : Layout) (x : Nat) : Nat := x / 2 ^ l.mw % 2 ^ l.ew

/-- The mantissa field of a W-bit number (R203). -/
def manOf (l : Layout) (x : Nat) : Nat := x % 2 ^ l.mw

/-- The sign of a W-bit number; an absent sign is positive (R205). -/
def negOf (l : Layout) (x : Nat) : Bool := decide (l.sw = 1) && x.testBit (l.ew + l.mw)

/-- The test of a class code on the fields of a pattern (R239), without the order: each excludes the others (R244). -/
def ClassTest (l : Layout) (neg : Bool) (e m : Nat) : ClassCode → Prop
  | .zeroNeg => neg = true ∧ e = 0 ∧ m = 0
  | .zeroPos => neg = false ∧ e = 0 ∧ m = 0
  | .infNeg => neg = true ∧ e = 2 ^ l.ew - 1 ∧ m = 0
  | .infPos => neg = false ∧ e = 2 ^ l.ew - 1 ∧ m = 0
  | .nanQuiet => e = 2 ^ l.ew - 1 ∧ 2 ^ (l.mw - 1) ≤ m
  | .nanSignaling => e = 2 ^ l.ew - 1 ∧ m ≠ 0 ∧ m < 2 ^ (l.mw - 1)
  | .spsub => neg = false ∧ e = 0 ∧ m = 1
  | .lsub => neg = false ∧ e = 0 ∧ m = 2 ^ l.mw - 1
  | .spnorm => neg = false ∧ e = 1 ∧ m = 0
  | .lnorm => neg = false ∧ e = 2 ^ l.ew - 2 ∧ m = 2 ^ l.mw - 1
  | .llt1 => neg = false ∧ e = l.bias - 1 ∧ m = 2 ^ l.mw - 1
  | .one => neg = false ∧ e = l.bias ∧ m = 0
  | .sgt1 => neg = false ∧ e = l.bias ∧ m = 1
  | .none => ¬(e = 2 ^ l.ew - 1) ∧ ¬(e = 0 ∧ m = 0) ∧
      (neg = true ∨
        ¬(e = 0 ∧ (m = 1 ∨ m = 2 ^ l.mw - 1)) ∧ ¬(e = 1 ∧ m = 0) ∧ ¬(e = 2 ^ l.ew - 2 ∧ m = 2 ^ l.mw - 1) ∧
        ¬(e = l.bias - 1 ∧ m = 2 ^ l.mw - 1) ∧ ¬(e = l.bias ∧ (m = 0 ∨ m = 1)))

/-- The text is malformed for ENCODE: no literal, and no numeral (R273, R274). -/
def MalformedText (s : State) : Prop :=
  ¬(infBytes <:+: normalize (inputText s)) ∧ ¬(nanBytes <:+: normalize (inputText s)) ∧ ¬∃ neg a b, TinNumeral s neg a b

/-- The conditions under which a command can report each error: the table of R356. -/
def ErrorCondition (i : Instr) (s : State) : ErrorCode → Prop
  | .ok | .illegal => False
  | .layout =>
    match i with
    | .lsel idx => 9 ≤ idx
    | .lset sw ew mw => ¬ValidRecord sw.toNat ew mw s.din0.toNat
    | .constructZero _ _ | .constructInf _ _ | .constructNan _ _ _ | .constructSpsub _ | .constructLsub _
    | .constructSpnorm _ | .constructLnorm _ | .constructLlt1 _ | .constructOne _ | .constructSgt1 _
    | .classify _ _ | .encode _ | .decode => s.lr.valid = false
    | _ => False
  | .capacity =>
    match i with
    | .all0 _ n | .all1 _ n | .fromu8 _ n | .fromu16 _ n | .fromu32 _ n | .fromu64 _ n | .fromu128 _ n => 256 < n
    | .concat _ ca cb => 256 < (s.getC ca).size + (s.getC cb).size
    | .resizeLo _ _ n | .resizeHi _ _ n => 256 < n
    | .getsub _ _ _ hi | .range0 _ _ hi | .range1 _ _ hi => 256 < hi
    | .parse _ => 256 < s.tinLen.toNat
    | .parseN _ n => 256 < n
    | _ => False
  | .range =>
    match i with
    | .set cd n _ => (s.getC cd).size ≤ n
    | .getsub _ _ lo hi | .range0 _ lo hi | .range1 _ lo hi => hi < lo
    | _ => False
  | .length =>
    match i with
    | .parseN _ n => s.tinLen.toNat ≠ n
    | .classify _ ca => (s.getC ca).size ≠ s.lr.layout.sw + s.lr.layout.ew + s.lr.layout.mw
    | .decode => s.tinLen.toNat ≠ s.lr.layout.sw + s.lr.layout.ew + s.lr.layout.mw
    | _ => False
  | .bits =>
    match i with
    | .parse _ | .parseN _ _ | .decode => BadBit s
    | _ => False
  | .text =>
    match i with
    | .encode _ => MalformedText s
    | _ => False

/-- The same operands (R390): what a command's effects are a function of. -/
def SameOperands (s s' : State) : Prop :=
  s.regs = s'.regs ∧ s.lr = s'.lr ∧ s.tin = s'.tin ∧ s.tinLen = s'.tinLen ∧
  s.din0 = s'.din0 ∧ s.din1 = s'.din1 ∧ s.din2 = s'.din2 ∧ s.din3 = s'.din3 ∧ s.prec = s'.prec

/-- A field is written alike by two runs of a command, or left as it was by both. -/
def WrittenAlike {α : Type} (s t s' t' : α) : Prop := t = t' ∨ (t = s ∧ t' = s')

/-- A number of units of 2^−1074 that is a finite binary64 magnitude with the significand m and the exponent k (R16). -/
def Representation (u m k : Nat) : Prop := u = m * 2 ^ k ∧ m < 2 ^ 53 ∧ (k = 0 ∨ 2 ^ 52 ≤ m) ∧ u < 2 ^ 2098

/-- A number of units of 2^−1074 that is a finite binary64 magnitude. -/
def IsBinary64 (u : Nat) : Prop := ∃ m k, Representation u m k

/-- The finite binary64 magnitude u is the nearest one to the number q of units, and in a tie the one with the even significand
(R16). -/
def Nearest64 (q : ℚ) (u : Nat) : Prop :=
  IsBinary64 u ∧ ∀ v, IsBinary64 v → |(u : ℚ) - q| ≤ |(v : ℚ) - q| ∧
    (v ≠ u → |(u : ℚ) - q| = |(v : ℚ) - q| → ∃ m k, Representation u m k ∧ m % 2 = 0)

/-- From this number of units of 2^−1074 on, rounding to binary64 gives +∞: the midpoint above the largest finite value. -/
def overflowUnits : ℚ := (2 : ℚ) ^ 2098 - 2 ^ 2044

/-- The integer n is the nearest one to q, and in a tie the even one (R318). -/
def NearestInt (q : ℚ) (n : Nat) : Prop := |(n : ℚ) - q| ≤ 1 / 2 ∧ (|(n : ℚ) - q| = 1 / 2 → n % 2 = 0)

/-- `acc i` is the sum of R315 after the i highest of the mw mantissa bits, in units of 2^−1074: it starts at 1, and each bit that
is 1 adds its power of two and rounds to binary64. -/
def MantissaSums (mw bits : Nat) (acc : Nat → Nat) : Prop :=
  acc 0 = 2 ^ 1074 ∧ ∀ i, i < mw →
    if bits.testBit (mw - 1 - i) then Nearest64 (acc i + 2 ^ (1074 - (i + 1))) (acc (i + 1)) else acc (i + 1) = acc i

/-- The window offsets of CMD and of the operand registers (R72, R75). -/
def OperandOffset (off : Nat) : Prop :=
  off = 0x08 ∨ off = 0x14 ∨ off = 0x40 ∨ off = 0x44 ∨ off = 0x48 ∨ off = 0x4C ∨ off = 0x50 ∨
  (0x1000 ≤ off ∧ off < 0x2000 ∧ off % 4 = 0)

/-- A legal read of the window offset `off` returns the number n. -/
def Shows (s : State) (off : BitVec 14) (n : Nat) : Prop :=
  ∃ d, (hostRead s off 4).response = some (.data d) ∧ d.toNat = n

/-- The index of a container register (R50). -/
def indexOf : CReg → Nat
  | .c0 => 0 | .c1 => 1 | .c2 => 2 | .c3 => 3 | .c4 => 4 | .c5 => 5 | .c6 => 6 | .c7 => 7

/-- The block's state is the same in both: everything but the model's own fields (wait, draws, pending, response). -/
def SameBlock (s t : State) : Prop :=
  t.engine = s.engine ∧ t.regs = s.regs ∧ t.lr = s.lr ∧ t.tin = s.tin ∧ t.tinLen = s.tinLen ∧ t.tout = s.tout ∧
  t.toutLen = s.toutLen ∧ t.din0 = s.din0 ∧ t.din1 = s.din1 ∧ t.din2 = s.din2 ∧ t.din3 = s.din3 ∧ t.prec = s.prec ∧
  t.err = s.err ∧ t.errs = s.errs ∧ t.ovr = s.ovr ∧ t.resultBool = s.resultBool ∧ t.resultClass = s.resultClass ∧
  t.resetLine = s.resetLine

end Sys2Proof.Claims

open Sys2Proof Sys2Proof.Machine Sys2Proof.Claims

/-! ### Encoding -/

/-- Decoding the encoding of a well-formed command gives the command back, with every operand at every value its field admits
(R103 to R114). -/
def Obligations.DecodeEncodeRoundTrip : Prop :=
  ∀ i : Instr, i.wellFormed = true → decode (encode i) = .ok i

/-- A word that decodes to a command is that command's encoding, so each legal word has one meaning and no bit of it is
dropped (R114: every bit not in a free field is in the mask). -/
def Obligations.EncodeOfDecodedWord : Prop :=
  ∀ (w : Word) (i : Instr), decode w = .ok i → i.wellFormed = true ∧ encode i = w

/-- R119: decoding is total, answers the row that matches, and at most one row matches any word. -/
def Obligations.DecodingIsTotalAndUnambiguous : Prop :=
  ∀ w : Word,
    ((∃ r ∈ opRows, w &&& r.mask = r.pattern ∧ decode w = .ok (r.build w)) ∨
      ((∀ r ∈ opRows, w &&& r.mask ≠ r.pattern) ∧ ∃ e, decode w = .error e)) ∧
    ∀ i j : Fin opRows.length, w &&& opRows[i].mask = opRows[i].pattern → w &&& opRows[j].mask = opRows[j].pattern → i = j

/-- R115: the words with an unassigned opcode, and those with an assigned one that the rule lists, are illegal. -/
def Obligations.UnassignedAndReservedWordsAreIllegal : Prop :=
  ∀ w : Word,
    (∀ opc, wordField w 0 8 = opc →
      (opc = 0x00 ∨ (0x0D ≤ opc ∧ opc ≤ 0x0F) ∨ (0x12 ≤ opc ∧ opc ≤ 0x1F) ∨ (0x22 ≤ opc ∧ opc ≤ 0x2F) ∨ 0x32 ≤ opc) →
      decode w = .error .unassignedOpcode) ∧
    ((∀ r ∈ opRows, w &&& r.mask ≠ r.pattern) → ∃ e, decode w = .error e) ∧
    (wordField w 0 8 = 0x03 → 5 ≤ wordField w 24 3 → decode w = .error .reservedEncoding) ∧
    (wordField w 0 8 = 0x20 → 10 ≤ wordField w 14 4 → decode w = .error .reservedEncoding) ∧
    (wordField w 0 8 = 0x20 → 2 ≤ wordField w 14 4 → w.getLsbD 18 = true → decode w = .error .reservedEncoding) ∧
    (wordField w 0 8 = 0x20 → wordField w 14 4 ≠ 2 → (w.getLsbD 19 = true ∨ wordField w 11 3 ≠ 0) →
      decode w = .error .reservedEncoding) ∧
    (wordField w 0 8 = 0x0B → w.getLsbD 23 = false → wordField w 14 9 ≠ 0 → decode w = .error .reservedEncoding)

/-- Words written out from the spec's formats decode to the commands they stand for (R103 to R109). -/
def Obligations.SampleWordsDecode : Prop :=
  decode 0x04200303#32 = .ok (.fromu128 .c3 128) ∧ decode 0x00800105#32 = .ok (.set .c1 0 true) ∧
  decode 0x00004206#32 = .ok (.concat .c2 .c0 .c1) ∧ decode 0x03808D08#32 = .ok (.getsub .c5 .c1 2 7) ∧
  decode 0x00100611#32 = .ok (.lset false 3 4) ∧ decode 0x00088820#32 = .ok (.constructNan .c0 true .c1) ∧
  decode 0x00000110#32 = .ok (.lsel 1) ∧ decode 0x00000031#32 = .ok .decode

/-! ### The step -/

/-- An illegal word, once the engine performs it, sets ERR = ILLEGAL and ERRS = 1 and has no other effect (R116). That a step
performs it when its latency has run out, or when the host has nothing more to do, is the model's choice (log 1). -/
def Obligations.IllegalWordOnlySetsStatus : Prop :=
  ∀ (s : State) (w : Word) (e : DecodeError), s.engine = .busy w → s.resetLine = false → (s.wait = 0 ∨ s.pending = []) →
    decode w = .error e → ∃ t, step s = .next t ∧ Failed .illegal s t

/-- When the engine holds a word that decodes to a command and its instant has come (its latency has run out, or the host has
nothing more to do: log 1), the step is the meaning of that command, and nothing is added around it. -/
def Obligations.StepPerformsDecodedCommand : Prop :=
  ∀ (s : State) (w : Word) (i : Instr), s.engine = .busy w → s.resetLine = false → (s.wait = 0 ∨ s.pending = []) →
    decode w = .ok i → step s = exec i s

/-! ### Bit-container commands -/

/-- R143, R144: ALL0 and ALL1 build a container of N zeros or N ones, and fail with CAPACITY above 256. -/
def Obligations.FillCommandsSetEveryBit : Prop :=
  ∀ (s : State) (cd : CReg) (n : Nat) (i : Instr) (b : Bool), (i, b) ∈ [(Instr.all0 cd n, false), (Instr.all1 cd n, true)] →
    (n ≤ 256 → ∃ t, exec i s = .next t ∧ WroteContainer cd s t ∧ (t.getC cd).wf ∧ (t.getC cd).size = n ∧
      ∀ j, j < n → (t.getC cd).bit j = b) ∧
    (256 < n → Fails i s .capacity)

/-- R145: FROMU puts the low 8, 16, 32, 64 or 128 bits of DIN into the low bits of an N-bit container, the rest zero. -/
def Obligations.FromUnsignedPlacesDin : Prop :=
  ∀ (s : State) (cd : CReg) (n : Nat) (i : Instr) (tw : Nat),
    (i, tw) ∈ [(Instr.fromu8 cd n, 8), (Instr.fromu16 cd n, 16), (Instr.fromu32 cd n, 32), (Instr.fromu64 cd n, 64),
      (Instr.fromu128 cd n, 128)] →
    (n ≤ 256 → ∃ t, exec i s = .next t ∧ WroteContainer cd s t ∧ (t.getC cd).wf ∧ (t.getC cd).size = n ∧
      ∀ j, (t.getC cd).bit j = (decide (j < n) && decide (j < tw) && dinBit s j)) ∧
    (256 < n → Fails i s .capacity)

/-- R146: GET writes the bit at the position to RESULT.BOOL, 0 at and above the size, and never fails. -/
def Obligations.GetReadsOneBit : Prop :=
  ∀ (s : State) (ca : CReg) (n : Nat),
    ∃ t, exec (.get ca n) s = .next t ∧
      WroteBool (if n < (s.getC ca).size then (s.getC ca).bits.testBit n else false) s t

/-- R147: SET replaces one bit of c[CD] and keeps its size and every other bit; at and above the size it fails with RANGE. -/
def Obligations.SetWritesOneBit : Prop :=
  ∀ (s : State) (cd : CReg) (n : Nat) (p : Bool), s.Inv →
    (n < (s.getC cd).size → ∃ t, exec (.set cd n p) s = .next t ∧ WroteContainer cd s t ∧ (t.getC cd).wf ∧
      (t.getC cd).size = (s.getC cd).size ∧ ∀ j, (t.getC cd).bit j = if j = n then p else (s.getC cd).bit j) ∧
    ((s.getC cd).size ≤ n → Fails (.set cd n p) s .range)

/-- R148: CONCAT puts c[CB] in the low bits and c[CA] above it, and fails with CAPACITY when the sizes exceed 256. -/
def Obligations.ConcatPlacesHighAndLow : Prop :=
  ∀ (s : State) (cd ca cb : CReg), s.Inv →
    ((s.getC ca).size + (s.getC cb).size ≤ 256 → ∃ t, exec (.concat cd ca cb) s = .next t ∧ WroteContainer cd s t ∧
      (t.getC cd).wf ∧ (t.getC cd).size = (s.getC ca).size + (s.getC cb).size ∧
      ∀ j, (t.getC cd).bit j =
        if j < (s.getC cb).size then (s.getC cb).bit j else (s.getC ca).bit (j - (s.getC cb).size)) ∧
    (256 < (s.getC ca).size + (s.getC cb).size → Fails (.concat cd ca cb) s .capacity)

/-- R149: RESIZE.LO keeps the high end: growing shifts up with zeros below, shrinking drops the low bits. -/
def Obligations.ResizeLowKeepsHighEnd : Prop :=
  ∀ (s : State) (cd ca : CReg) (n : Nat), s.Inv →
    (n ≤ 256 → ∃ t, exec (.resizeLo cd ca n) s = .next t ∧ WroteContainer cd s t ∧ (t.getC cd).wf ∧ (t.getC cd).size = n ∧
      ∀ j, (t.getC cd).bit j =
        (decide (j < n) && decide (n ≤ j + (s.getC ca).size) && (s.getC ca).bit (j + (s.getC ca).size - n))) ∧
    (256 < n → Fails (.resizeLo cd ca n) s .capacity)

/-- R150: RESIZE.HI keeps the low end: growing adds zeros above, shrinking drops the high bits. -/
def Obligations.ResizeHighKeepsLowEnd : Prop :=
  ∀ (s : State) (cd ca : CReg) (n : Nat), s.Inv →
    (n ≤ 256 → ∃ t, exec (.resizeHi cd ca n) s = .next t ∧ WroteContainer cd s t ∧ (t.getC cd).wf ∧ (t.getC cd).size = n ∧
      ∀ j, (t.getC cd).bit j = (decide (j < n) && (s.getC ca).bit j)) ∧
    (256 < n → Fails (.resizeHi cd ca n) s .capacity)

/-- R151: GETSUB extracts the half-open bit range [LO, HI); CAPACITY above 256 comes before RANGE. -/
def Obligations.GetsubExtractsHalfOpenRange : Prop :=
  ∀ (s : State) (cd ca : CReg) (lo hi : Nat),
    (lo ≤ hi → hi ≤ 256 → ∃ t, exec (.getsub cd ca lo hi) s = .next t ∧ WroteContainer cd s t ∧ (t.getC cd).wf ∧
      (t.getC cd).size = hi - lo ∧ ∀ j, j < hi - lo → (t.getC cd).bit j = (s.getC ca).bit (lo + j)) ∧
    (256 < hi → Fails (.getsub cd ca lo hi) s .capacity) ∧
    (hi ≤ 256 → hi < lo → Fails (.getsub cd ca lo hi) s .range)

/-- R152, R153: RANGE0 and RANGE1 write to RESULT.BOOL whether every bit of [LO, HI) is 0, or is 1. -/
def Obligations.RangeTestsEveryBit : Prop :=
  ∀ (s : State) (ca : CReg) (lo hi : Nat) (i : Instr) (b : Bool),
    (i, b) ∈ [(Instr.range0 ca lo hi, false), (Instr.range1 ca lo hi, true)] →
    (lo ≤ hi → hi ≤ 256 → ∃ t v, exec i s = .next t ∧ WroteBool v s t ∧
      (v = true ↔ ∀ j, lo ≤ j → j < hi → (s.getC ca).bit j = b)) ∧
    (256 < hi → Fails i s .capacity) ∧
    (hi ≤ 256 → hi < lo → Fails i s .range)

/-- R154, R155: PARSE and PARSE.N read TIN as an MSB-first bit string; CAPACITY, then LENGTH, then BITS. -/
def Obligations.ParseReadsBitString : Prop :=
  ∀ (s : State) (cd : CReg) (n : Nat),
    (s.tinLen.toNat ≤ 256 → ¬BadBit s →
      ∃ t, exec (.parse cd) s = .next t ∧ WroteContainer cd s t ∧ ShowsTin s (t.getC cd)) ∧
    (256 < s.tinLen.toNat → Fails (.parse cd) s .capacity) ∧
    (s.tinLen.toNat ≤ 256 → BadBit s → Fails (.parse cd) s .bits) ∧
    (n ≤ 256 → s.tinLen.toNat = n → ¬BadBit s →
      ∃ t, exec (.parseN cd n) s = .next t ∧ WroteContainer cd s t ∧ ShowsTin s (t.getC cd)) ∧
    (256 < n → Fails (.parseN cd n) s .capacity) ∧
    (n ≤ 256 → s.tinLen.toNat ≠ n → Fails (.parseN cd n) s .length) ∧
    (n ≤ 256 → s.tinLen.toNat = n → BadBit s → Fails (.parseN cd n) s .bits)

/-- R156: RENDER writes the MSB-first text of a container to TOUT, zeros after it, and its size to TOUT_LEN. -/
def Obligations.RenderWritesMsbFirst : Prop :=
  ∀ (s : State) (ca : CReg), s.Inv →
    ∃ t x, exec (.render ca) s = .next t ∧ WroteTout x s t ∧ x.length = (s.getC ca).size ∧
      ∀ c, c < (s.getC ca).size → x.getD c 0 = if (s.getC ca).bit ((s.getC ca).size - 1 - c) then 0x31 else 0x30

/-- RENDER, a copy of TOUT and TOUT_LEN to TIN and TIN_LEN by the host, and PARSE give the container back, in any register. -/
def Obligations.ParseOfRenderedContainer : Prop :=
  ∀ (s t u : State) (ca cd : CReg), s.Inv → exec (.render ca) s = .next t →
    exec (.parse cd) { t with tin := t.tout, tinLen := t.toutLen } = .next u →
    u.err = .ok ∧ u.getC cd = s.getC ca

/-- The integer laws of the container functions, on containers of a legal form: an inference the spec marks as its own ("These
laws hold [derived: from rule R142]", 40_bitcontainer.md section 7). -/
def Obligations.ContainerIntegerLaws : Prop :=
  ∀ (x y : Container) (n lo hi : Nat), x.wf → y.wf →
    (cat x y).bits = x.bits * 2 ^ y.size + y.bits ∧
    (x.size ≤ n → (rsLow x n).bits = x.bits * 2 ^ (n - x.size)) ∧
    (n ≤ x.size → (rsLow x n).bits = x.bits / 2 ^ (x.size - n)) ∧
    (rsHigh x n).bits = x.bits % 2 ^ n ∧
    (lo ≤ hi → (sub x lo hi).bits = x.bits / 2 ^ lo % 2 ^ (hi - lo))

/-! ### Layout -/

/-- R209, R208: LSEL loads the ROM entry into LR, every field at once; an index of 9 or more fails with LAYOUT. -/
def Obligations.LselLoadsRomEntry : Prop :=
  ∀ (s : State) (idx : Nat),
    (∀ sw ew mw bias : Nat,
      [(1, 5, 10, 15), (1, 8, 23, 127), (1, 11, 52, 1023), (1, 15, 112, 16383), (1, 19, 236, 262143), (1, 4, 3, 7),
        (1, 5, 2, 15), (1, 8, 7, 127), (1, 8, 10, 127)][idx]? = some (sw, ew, mw, bias) →
      ∃ t, exec (.lsel idx) s = .next t ∧ WroteLayout s t ∧ t.lr.valid = true ∧ t.lr.sw.toNat = sw ∧ t.lr.ew.toNat = ew ∧
        t.lr.mw.toNat = mw ∧ t.lr.bias.toNat = bias ∧ t.lr.src.toNat = idx) ∧
    (9 ≤ idx → Fails (.lsel idx) s .layout)

/-- R210, R211: LSET loads the record of its widths and DIN0 when it is valid, and fails with LAYOUT otherwise. -/
def Obligations.LsetLoadsValidRecord : Prop :=
  ∀ (s : State) (sw : Bool) (ew mw : Nat),
    (ValidRecord sw.toNat ew mw s.din0.toNat →
      ∃ t, exec (.lset sw ew mw) s = .next t ∧ WroteLayout s t ∧ t.lr.valid = true ∧ t.lr.sw = sw ∧ t.lr.ew.toNat = ew ∧
        t.lr.mw.toNat = mw ∧ t.lr.bias = s.din0 ∧ t.lr.src.toNat = 15) ∧
    (¬ValidRecord sw.toNat ew mw s.din0.toNat → Fails (.lset sw ew mw) s .layout)

/-- R38, R207, and the fields of R37, each read at its offset of R72 while the engine is `Idle`: the fields of LCFG, LBIAS and the
seven derived layout registers, and that the seven read 0 while LR.VALID = 0. -/
def Obligations.LayoutRegistersShowLayout : Prop :=
  ∀ (s : State), s.Inv → s.engine = .idle → s.resetLine = false →
    (∃ d, (hostRead s 0x0018 4).response = some (.data d) ∧ ∀ j, d.getLsbD j =
      if j < 9 then s.lr.ew.getLsbD j else if j < 18 then s.lr.mw.getLsbD (j - 9) else if j = 18 then s.lr.sw
      else if j = 19 then s.lr.valid else if j < 24 then s.lr.src.getLsbD (j - 20) else false) ∧
    Shows s 0x001C s.lr.bias.toNat ∧
    (s.lr.valid = true → ∀ sw ew mw, sw = s.lr.sw.toNat → ew = s.lr.ew.toNat → mw = s.lr.mw.toNat →
      Shows s 0x0020 (sw + ew + mw) ∧
      Shows s 0x0024 (if sw = 1 then sw + ew + mw - 1 + 2 ^ 31 else 0) ∧
      Shows s 0x0028 (mw + (mw + ew) * 2 ^ 16) ∧
      Shows s 0x002C (mw * 2 ^ 16) ∧
      Shows s 0x0030 (sw * 2 ^ 16) ∧
      Shows s 0x0034 (sw + (sw + ew) * 2 ^ 16) ∧
      Shows s 0x0038 ((sw + ew) + (sw + ew + mw) * 2 ^ 16)) ∧
    (s.lr.valid = false → ∀ off ∈ ([0x0020, 0x0024, 0x0028, 0x002C, 0x0030, 0x0034, 0x0038] : List (BitVec 14)), Shows s off 0)

/-- Assembling the fields of a pattern gives the pattern back, an inference the spec marks as its own (41_layout.md section 1, "For
every pattern p of size W"), and the fields of an assembled pattern are the ones it was assembled from. -/
def Obligations.PackAndFieldsAreInverse : Prop :=
  ∀ l : Layout, l.valid →
    (∀ p : Container, p.wf → p.size = l.width → l.pack (l.sgn p) (l.expf p) (l.manf p) = p) ∧
    (∀ (s : Bool) (e m : Nat), e < 2 ^ l.ew → m < 2 ^ l.mw →
      (l.pack s e m).size = l.width ∧ l.expf (l.pack s e m) = e ∧ l.manf (l.pack s e m) = m ∧
      l.sgn (l.pack s e m) = (decide (l.sw = 1) && s))

/-! ### Special values -/

/-- R234 to R238: each CONSTRUCT command writes its landmark's W-bit pattern to c[CD], the NaN payload from c[CA]; without a
valid layout it fails with LAYOUT. -/
def Obligations.ConstructBuildsLandmark : Prop :=
  ∀ (s : State) (cd ca : CReg) (b : Bool) (l : Layout) (i : Instr) (bits : Nat), s.Inv → l = s.lr.layout →
    (i, bits) ∈
      [ (Instr.constructZero cd b, signPart l b),
        (Instr.constructInf cd b, signPart l b + (2 ^ l.ew - 1) * 2 ^ l.mw),
        (Instr.constructNan cd b ca, (2 ^ l.ew - 1) * 2 ^ l.mw + (1 - b.toNat) * 2 ^ (l.mw - 1) +
          (s.getC ca).bits % 2 ^ (l.mw - 2) * 2 + 1),
        (Instr.constructSpsub cd, 1),
        (Instr.constructLsub cd, 2 ^ l.mw - 1),
        (Instr.constructSpnorm cd, 2 ^ l.mw),
        (Instr.constructLnorm cd, (2 ^ l.ew - 2) * 2 ^ l.mw + (2 ^ l.mw - 1)),
        (Instr.constructLlt1 cd, (l.bias - 1) * 2 ^ l.mw + (2 ^ l.mw - 1)),
        (Instr.constructOne cd, l.bias * 2 ^ l.mw),
        (Instr.constructSgt1 cd, l.bias * 2 ^ l.mw + 1) ] →
    (s.lr.valid = true → ∃ t, exec i s = .next t ∧ WroteContainer cd s t ∧
      t.getC cd = ⟨l.sw + l.ew + l.mw, bits⟩) ∧
    (s.lr.valid = false → Fails i s .layout)

/-- R239 to R242: CLASSIFY writes the code of the one class test that holds, and for a NaN its payload to c[CD]. -/
def Obligations.ClassifyNamesLandmark : Prop :=
  ∀ (s : State) (cd ca : CReg) (l : Layout) (x : Nat), s.Inv → l = s.lr.layout → x = (s.getC ca).bits →
    (s.lr.valid = true → (s.getC ca).size = l.sw + l.ew + l.mw →
      ∃ t, exec (.classify cd ca) s = .next t ∧ Succeeded s t ∧ t.resultBool = s.resultBool ∧
        (∀ k, t.resultClass = k ↔ ClassTest l (negOf l x) (expOf l x) (manOf l x) k) ∧
        (expOf l x = 2 ^ l.ew - 1 ∧ manOf l x ≠ 0 → t.getC cd = ⟨l.mw - 2, manOf l x / 2 % 2 ^ (l.mw - 2)⟩) ∧
        (¬(expOf l x = 2 ^ l.ew - 1 ∧ manOf l x ≠ 0) → t.getC cd = s.getC cd) ∧
        SameRegsBut cd s t ∧ t.lr = s.lr ∧ SameTout s t ∧ Unwritten s t) ∧
    (s.lr.valid = false → Fails (.classify cd ca) s .layout) ∧
    (s.lr.valid = true → (s.getC ca).size ≠ l.sw + l.ew + l.mw → Fails (.classify cd ca) s .length)

/-- For every valid layout and every variant value, the classifier inverts the constructor, and a NaN's payload is recovered as
the resized payload: an inference the spec marks as its own (42_special_values.md section 3, "The inverse property"). -/
def Obligations.ClassifyInvertsConstruct : Prop :=
  ∀ l : Layout, l.valid →
    (∀ v : SpecialValue, classify l (construct l v) = classOf l v) ∧
    (∀ (sig : Bool) (p : Container), nanPayload l (construct l (.nan sig p)) = rsHigh p (l.mw - 2))

/-- The landmark patterns of a valid layout are pairwise distinct: the two signs of zero and infinity when there is a sign field,
the two kinds of NaN, whatever their payloads, and the seven magnitude landmarks. An inference the spec marks as its own
(42_special_values.md section 3, "Distinctness"). -/
def Obligations.LandmarkPatternsAreDistinct : Prop :=
  ∀ (l : Layout) (p q : Container), l.valid →
    let vs := [SpecialValue.zero false, .infinity false, .nan false p, .nan true q, .spsub, .lsub, .spnorm, .lnorm, .llt1,
      .one, .sgt1] ++ (if l.sw = 1 then [SpecialValue.zero true, .infinity true] else [])
    vs.Pairwise fun v w => construct l v ≠ construct l w

/-! ### ENCODE -/

/-- R272: normalization drops exactly the leading and trailing trim bytes and folds the case of the rest. -/
def Obligations.NormalizeTrimsAndFolds : Prop :=
  ∀ t : List Byte, ∃ pre mid post : List Byte, t = pre ++ mid ++ post ∧
    (∀ b ∈ pre ++ post, b ∈ ([0x20, 0x09, 0x0A, 0x0B, 0x0C, 0x0D] : List Byte)) ∧
    (∀ b, mid.head? = some b ∨ mid.getLast? = some b → b ∉ ([0x20, 0x09, 0x0A, 0x0B, 0x0C, 0x0D] : List Byte)) ∧
    (normalize t).length = mid.length ∧
    ∀ (i : Nat) (b : Byte), mid[i]? = some b →
      (normalize t)[i]? = some (if 0x41 ≤ b.toNat ∧ b.toNat ≤ 0x5A then b + 0x20 else b)

/-- R274: the parser accepts exactly the grammar, and the value of a numeral is int(A) + int(B)/10^|B|, with int the positional
value of the digits. -/
def Obligations.ParserAcceptsExactlyTheGrammar : Prop :=
  ∀ (u : List Byte) (x : Decimal),
    parseDecimal u = some x ↔
      ∃ neg a b, IsNumeral u neg a b ∧ x.den = 10 ^ b.length ∧ (x.num : ℚ) / x.den = numeralValue a b

/-- R273: a text that contains "inf" encodes to Infinity, signed by a leading '-', and one that contains "nan" but not "inf" to
the canonical quiet NaN; without a valid layout ENCODE fails with LAYOUT. -/
def Obligations.EncodeLiteralTokens : Prop :=
  ∀ (s : State) (cd : CReg) (l : Layout) (u : List Byte), s.Inv → l = s.lr.layout → u = normalize (inputText s) →
    (s.lr.valid = true → infBytes <:+: u →
      ∃ t, exec (.encode cd) s = .next t ∧ WrotePattern cd (l.sw + l.ew + l.mw)
        (signPart l (decide (u.head? = some 0x2D)) + (2 ^ l.ew - 1) * 2 ^ l.mw) s t) ∧
    (s.lr.valid = true → ¬(infBytes <:+: u) → nanBytes <:+: u →
      ∃ t, exec (.encode cd) s = .next t ∧ WrotePattern cd (l.sw + l.ew + l.mw)
        ((2 ^ l.ew - 1) * 2 ^ l.mw + 2 ^ (l.mw - 1) + 1) s t) ∧
    (s.lr.valid = false → Fails (.encode cd) s .layout)

/-- R275, R280: a numeral of value 0, or with a negative biased exponent, encodes to Zero of its sign, and one whose biased
exponent reaches the all-ones value to Infinity of its sign. -/
def Obligations.EncodeOutOfRange : Prop :=
  ∀ (s : State) (cd : CReg) (l : Layout) (neg : Bool) (a b : List Byte), s.Inv → s.lr.valid = true → l = s.lr.layout →
    TinNumeral s neg a b →
    (numeralValue a b = 0 →
      ∃ t, exec (.encode cd) s = .next t ∧ WrotePattern cd (l.sw + l.ew + l.mw) (signPart l neg) s t) ∧
    (∀ e : ℤ, (2 : ℚ) ^ e ≤ numeralValue a b → numeralValue a b < (2 : ℚ) ^ (e + 1) →
      (e + l.bias < 0 →
        ∃ t, exec (.encode cd) s = .next t ∧ WrotePattern cd (l.sw + l.ew + l.mw) (signPart l neg) s t) ∧
      ((2 : ℤ) ^ l.ew - 1 ≤ e + l.bias →
        ∃ t, exec (.encode cd) s = .next t ∧
          WrotePattern cd (l.sw + l.ew + l.mw) (signPart l neg + (2 ^ l.ew - 1) * 2 ^ l.mw) s t))

/-- R276 to R284: ENCODE of a numeral x with 2^e ≤ x < 2^(e+1) and a biased exponent in range truncates x to mw bits after the
leading one and adds the first fraction bit after them (the first fraction bit of x itself when e ≥ mw: discarded integer bits
never round), with carry into the exponent and into Infinity. -/
def Obligations.EncodeTruncatesAndRoundsHalfUp : Prop :=
  ∀ (s : State) (cd : CReg) (l : Layout) (neg : Bool) (a b : List Byte) (e : ℤ) (x : ℚ), s.Inv → s.lr.valid = true →
    l = s.lr.layout → TinNumeral s neg a b → x = numeralValue a b →
    (2 : ℚ) ^ e ≤ x → x < (2 : ℚ) ^ (e + 1) → 0 ≤ e + l.bias → e + l.bias < (2 : ℤ) ^ l.ew - 1 →
    ∃ t bits, exec (.encode cd) s = .next t ∧ WrotePattern cd (l.sw + l.ew + l.mw) bits s t ∧
      (bits : ℤ) = signPart l neg + (e + l.bias) * 2 ^ l.mw + (⌊x * (2 : ℚ) ^ ((l.mw : ℤ) - e)⌋ - 2 ^ l.mw) +
        (if e ≤ l.mw then ⌊x * (2 : ℚ) ^ ((l.mw : ℤ) - e + 1)⌋ % 2 else ⌊x * 2⌋ % 2)

/-! ### DECODE -/

/-- R16: round64 answers the nearest binary64 value, ties to the even significand, and +∞ exactly from the midpoint above the
largest finite value on. The format itself, with 53 significant bits, gradual underflow and this overflow threshold, is presumed
(log 8; the spec takes it from general knowledge). -/
def Obligations.Round64IsNearestEven : Prop :=
  ∀ (num den : Nat), 0 < den → ∀ q : ℚ, q = (num : ℚ) * 2 ^ 1074 / den →
    (∀ u, round64 num den = .finite u → Nearest64 q u) ∧
    (round64 num den = .infinite ↔ overflowUnits ≤ q)

/-- R312, R313: DECODE of a bit string of the layout's width whose pattern is a zero, an infinity or a NaN writes its literal
token; a wrong length is LENGTH, another character is BITS, no valid layout is LAYOUT, in the order LAYOUT, LENGTH, BITS. -/
def Obligations.DecodeWritesTokens : Prop :=
  ∀ (s : State) (p : Container) (l : Layout), s.Inv → l = s.lr.layout →
    (ShowsTin s p → s.lr.valid = true → s.tinLen.toNat = l.sw + l.ew + l.mw → ¬BadBit s →
      (expOf l p.bits = 0 → manOf l p.bits = 0 →
        ∃ t, exec .decode s = .next t ∧ WroteTout (signed (negOf l p.bits) [0x30, 0x2E, 0x30]) s t) ∧
      (expOf l p.bits = 2 ^ l.ew - 1 → manOf l p.bits = 0 →
        ∃ t, exec .decode s = .next t ∧ WroteTout (signed (negOf l p.bits) infinityToken) s t) ∧
      (expOf l p.bits = 2 ^ l.ew - 1 → manOf l p.bits ≠ 0 →
        ∃ t, exec .decode s = .next t ∧ WroteTout nanToken s t)) ∧
    (s.lr.valid = false → Fails .decode s .layout) ∧
    (s.lr.valid = true → s.tinLen.toNat ≠ l.sw + l.ew + l.mw → Fails .decode s .length) ∧
    (s.lr.valid = true → s.tinLen.toNat = l.sw + l.ew + l.mw → BadBit s → Fails .decode s .bits)

/-- R314 to R318, R321: DECODE of a non-special pattern with −1074 ≤ e − bias ≤ 1023, an exponent field of 0 read as any other.
For every mantissa width, the magnitude is 1 plus the mantissa bits added one at a time from the highest, each sum rounded to
binary64; its product with the power of two is rounded to binary64; an infinite product is the Infinity token of the pattern's
sign; a finite one is written to PREC fractional digits, rounded to the nearest and in a tie to the even last digit, with a
fraction of 1 to PREC digits, no needless zeros and no sign but "-". For mw ≤ 52 and −1022 ≤ e − bias, that is within half a
unit of the PREC-th fractional digit of (1 + m·2^−mw)·2^(e−bias). Binary64 itself is presumed (log 8). -/
def Obligations.DecodeIsWithinHalfADigit : Prop :=
  ∀ (s : State) (p : Container) (l : Layout), s.Inv → s.lr.valid = true → l = s.lr.layout → ShowsTin s p → ¬BadBit s →
    s.tinLen.toNat = l.sw + l.ew + l.mw →
    expOf l p.bits ≠ 2 ^ l.ew - 1 → ¬(expOf l p.bits = 0 ∧ manOf l p.bits = 0) →
    ∀ e : ℤ, e = (expOf l p.bits : ℤ) - l.bias → -1074 ≤ e → e ≤ 1023 →
    (∃ acc, MantissaSums l.mw p.bits acc ∧
      (overflowUnits ≤ acc l.mw * (2 : ℚ) ^ e →
        ∃ t, exec .decode s = .next t ∧ WroteTout (signed (negOf l p.bits) infinityToken) s t) ∧
      (acc l.mw * (2 : ℚ) ^ e < overflowUnits →
        ∃ t x a b v n, exec .decode s = .next t ∧ WroteTout x s t ∧
          IsDecimalOutput x (negOf l p.bits) s.prec.toNat a b ∧ Nearest64 (acc l.mw * (2 : ℚ) ^ e) v ∧
          NearestInt ((v : ℚ) / 2 ^ 1074 * 10 ^ s.prec.toNat) n ∧ numeralValue a b = n / 10 ^ s.prec.toNat)) ∧
    (l.mw ≤ 52 → -1022 ≤ e →
      ∃ t x a b, exec .decode s = .next t ∧ WroteTout x s t ∧ IsDecimalOutput x (negOf l p.bits) s.prec.toNat a b ∧
        |numeralValue a b - (1 + (manOf l p.bits : ℚ) / 2 ^ l.mw) * (2 : ℚ) ^ e| ≤ 1 / (2 * 10 ^ s.prec.toNat))

/-- R316, R319: a non-special pattern with an exponent above 1023 decodes to the signed Infinity token, and one with an exponent
below −1074 to the signed "0.0". -/
def Obligations.DecodeOutsideBinary64Range : Prop :=
  ∀ (s : State) (p : Container) (l : Layout), s.Inv → s.lr.valid = true → l = s.lr.layout → ShowsTin s p → ¬BadBit s →
    s.tinLen.toNat = l.sw + l.ew + l.mw →
    expOf l p.bits ≠ 2 ^ l.ew - 1 → ¬(expOf l p.bits = 0 ∧ manOf l p.bits = 0) →
    ((1023 : ℤ) < (expOf l p.bits : ℤ) - l.bias →
      ∃ t, exec .decode s = .next t ∧ WroteTout (signed (negOf l p.bits) infinityToken) s t) ∧
    ((expOf l p.bits : ℤ) - l.bias < -1074 →
      ∃ t, exec .decode s = .next t ∧ WroteTout (signed (negOf l p.bits) [0x30, 0x2E, 0x30]) s t)

/-- Under a valid layout DECODE of any bit string of its width completes, and its output is at most 1385 bytes: an inference the
spec marks as its own (44_decode.md section 2, "Output length"), from the range and the precision of binary64 (log 8). -/
def Obligations.DecodeOutputIsAtMost1385Bytes : Prop :=
  ∀ s : State, s.Inv → s.lr.valid = true → ¬BadBit s →
    s.tinLen.toNat = s.lr.layout.sw + s.lr.layout.ew + s.lr.layout.mw →
    ∃ t x, exec .decode s = .next t ∧ WroteTout x s t ∧ x.length ≤ 1385

/-! ### Errors, flags and frames of every command -/

/-- R355, R356: a command reports OK when none of its conditions holds, and otherwise the first that holds in ascending code
order, writing nothing but STATUS; a word that decodes to no command reports ILLEGAL whatever its operands are. -/
def Obligations.CommandReportsItsFirstError : Prop :=
  (∀ (i : Instr) (s : State), s.Inv → ∃ t, exec i s = .next t ∧
    ((∀ e, ¬ErrorCondition i s e) → t.err = .ok) ∧
    ∀ e, ErrorCondition i s e → (∀ e', e'.code < e.code → ¬ErrorCondition i s e') → Failed e s t) ∧
  (∀ (w : Word) (s : State) (d : DecodeError), decode w = .error d → ∃ t, runCommand w s = .next t ∧ Failed .illegal s t)

/-- R352, R353: a completed command either succeeds with ERR = 0 and ERRS unchanged, or fails with a code other than 0, sets
ERRS and writes nothing else; the engine is `Idle` in both. -/
def Obligations.FailureWritesOnlyStatus : Prop :=
  ∀ (i : Instr) (s : State), ∃ t, exec i s = .next t ∧
    (Succeeded s t ∨ (t.err ≠ .ok ∧ Failed t.err s t))

/-- R35: no command changes a container register other than its destination, and one without a destination changes none. -/
def Obligations.OnlyTheDestinationRegisterChanges : Prop :=
  ∀ (i : Instr) (s t : State), exec i s = .next t → ∀ k, i.destination ≠ some k → t.getC k = s.getC k

/-- R37, R41 to R43, R45: only LSEL and LSET change LR, only RENDER, ENCODE and DECODE change TOUT or TOUT_LEN, and no command
changes TIN, TIN_LEN, DIN, PREC or OVR. -/
def Obligations.OnlyNamedCommandsWriteLayoutAndBuffers : Prop :=
  ∀ (i : Instr) (s t : State), exec i s = .next t →
    (i.writesLayout = false → t.lr = s.lr) ∧ (i.writesTout = false → SameTout s t) ∧ Unwritten s t

/-- R47, R49: only GET, RANGE0 and RANGE1 change RESULT.BOOL, only CLASSIFY changes RESULT.CLASS, and a command that fails
changes neither. -/
def Obligations.OnlyNamedCommandsWriteResult : Prop :=
  ∀ (i : Instr) (s t : State), exec i s = .next t →
    (i.writesBool = false ∨ t.err ≠ .ok → t.resultBool = s.resultBool) ∧
    (i.writesClass = false ∨ t.err ≠ .ok → t.resultClass = s.resultClass)

/-- A command's effects are a function of its word, the containers, LR, TIN, TIN_LEN, DIN and PREC. From two states that
agree on those, whatever their STATUS, RESULT, TOUT, latency and host are, it gives the same error, registers and layout, and
writes RESULT and TOUT alike or in neither. An inference the spec marks as its own (70_reset_and_hazards.md section 4,
"Determinism"). -/
def Obligations.CommandEffectsDependOnOperandsOnly : Prop :=
  ∀ (i : Instr) (s s' : State), SameOperands s s' → ∃ t t', exec i s = .next t ∧ exec i s' = .next t' ∧
    t.err = t'.err ∧ t.regs = t'.regs ∧ t.lr = t'.lr ∧
    WrittenAlike (s.tout, s.toutLen) (t.tout, t.toutLen) (s'.tout, s'.toutLen) (t'.tout, t'.toutLen) ∧
    WrittenAlike s.resultBool t.resultBool s'.resultBool t'.resultBool ∧
    WrittenAlike s.resultClass t.resultClass s'.resultClass t'.resultClass

/-! ### The machine -/

/-- R357: no trap. Every step of the machine answers a next state; no fault and no refusal ever stops it. -/
def Obligations.EveryStepAnswersNext : Prop := ∀ s : State, ∃ t, step s = .next t

/-- R52: right after reset the engine is `Idle`, and every legal read of the window returns 0, but for ID, CAPS and RESULT, which
reads 0x00000F00. -/
def Obligations.ResetValuesInTheWindow : Prop :=
  State.reset.engine = .idle ∧
  ∀ off : BitVec 14, off.toNat % 4 = 0 →
    (hostRead State.reset off 4).response = some (.data
      (if off.toNat = 0x00 then 0x46504344 else if off.toNat = 0x04 then 0x09080100
       else if off.toNat = 0x10 then 0x00000F00 else 0))

/-- The state after reset satisfies the invariant. -/
def Obligations.ResetSatisfiesInvariant : Prop := State.reset.Inv

/-- Every step keeps the invariant: containers stay in legal form (R32, R33), LR stays a valid layout (R37), the text buffers
stay canonical, the lengths stay within TEXT_MAX (R41, R42), and TOUT stays 0 beyond its length (R42). That the block stays at
its reset values while reset is asserted, the last clause of the invariant, is the model's choice (log 10): R381 says so only of
the moment reset is released. -/
def Obligations.StepKeepsInvariant : Prop := ∀ s t : State, s.Inv → step s = .next t → t.Inv

/-- Asserting reset, unless the engine reaches its instant first, abandons any command and leaves every piece of the
block's state at its reset value; while it is asserted legal reads return 0 and legal writes are ignored; and when it is
released every piece of the block's state holds its reset value (70_reset_and_hazards.md section 1). The host's future and the counter of free values are the
model's own (log 2, 3); that the values change as soon as reset is asserted is the model's choice (log 10), and so are the
engine's turn before the host's (log 1) and the answer `done` to an ignored write (log 7). -/
def Obligations.ResetInputRestoresResetState : Prop :=
  ∀ (s : State) (rest : List HostEvent),
    (s.resetLine = false → (∀ w, s.engine = .busy w → s.wait ≠ 0) → s.pending = .assertReset :: rest →
      step s = .next { State.reset with resetLine := true, pending := rest, draws := s.draws }) ∧
    (s.resetLine = true → s.pending = .releaseReset :: rest →
      step s = .next { State.reset with pending := rest, draws := s.draws }) ∧
    (∀ off : BitVec 14, s.resetLine = true → off.toNat % 4 = 0 → s.pending = .read off 4 :: rest →
      step s = .next { s with pending := rest, response := some (.data 0) }) ∧
    (∀ (off : BitVec 14) (v : Word), s.resetLine = true → off.toNat % 4 = 0 → s.pending = .write off 4 v :: rest →
      step s = .next { s with pending := rest, response := some .done })

/-- R44, R384(a): a write of w to CMD while the engine is `Idle` makes it `Busy(w)`, so that BUSY reads 1, and changes nothing
else of the block; CMD itself reads 0. The latency is the open LAT (log 1). -/
def Obligations.CmdWriteStartsCommand : Prop :=
  ∀ (s : State) (w : Word) (rest : List HostEvent), s.engine = .idle → s.resetLine = false →
    s.pending = .write 0x0008 4 w :: rest →
    ∃ t, step s = .next t ∧ t.engine = .busy w ∧ (statusWord t).getLsbD 0 = true ∧ readReg t .cmd = 0 ∧
      t.pending = rest ∧ SameBlock { s with engine := .busy w } t

/-- While the engine is busy a legal write to CMD or an operand register is dropped and sets OVR, a write of STATUS clears the bits
written as 1, and any other legal write is ignored; the command in progress goes on (R385). That a busy step with latency left is
the host's next access is the model's choice (log 1). -/
def Obligations.BusyWritesAreDropped : Prop :=
  ∀ (s : State) (w v : Word) (off : BitVec 14) (rest : List HostEvent), s.engine = .busy w → s.resetLine = false →
    s.wait ≠ 0 → s.pending = .write off 4 v :: rest → off.toNat % 4 = 0 →
    ∃ t, step s = .next t ∧ t.pending = rest ∧
      (OperandOffset off.toNat → SameBlock { s with ovr := true } t) ∧
      (off.toNat = 0x0C → SameBlock { s with errs := s.errs && !v.getLsbD 1, ovr := s.ovr && !v.getLsbD 2 } t) ∧
      (¬OperandOffset off.toNat → off.toNat ≠ 0x0C → SameBlock s t)

/-- R41, R43, R45: a legal write of v while the engine is `Idle` stores v in DIN0 to DIN3, v mod 2^12 in PREC, and
min(v mod 2^13, 4096) in TIN_LEN, and changes nothing else of the block. -/
def Obligations.OperandWritesStoreTheirFields : Prop :=
  ∀ (s : State) (v : Word), s.engine = .idle → s.resetLine = false →
    SameBlock { s with din0 := v } (hostWrite s 0x0040 4 v) ∧ SameBlock { s with din1 := v } (hostWrite s 0x0044 4 v) ∧
    SameBlock { s with din2 := v } (hostWrite s 0x0048 4 v) ∧ SameBlock { s with din3 := v } (hostWrite s 0x004C 4 v) ∧
    (∃ p, SameBlock { s with prec := p } (hostWrite s 0x0014 4 v) ∧ p.toNat = v.toNat % 2 ^ 12) ∧
    (∃ n, SameBlock { s with tinLen := n } (hostWrite s 0x0050 4 v) ∧ n.toNat = min (v.toNat % 2 ^ 13) 4096)

/-- R78: the text buffers are little-endian in the window: a legal write at offset 0x1000 + 4i stores byte lane n of the word in
TIN[4i + n] and changes no other byte of TIN and nothing else of the block, and a legal read of TIN or TOUT shows byte 4i + n in byte lane n. -/
def Obligations.TextWindowIsLittleEndian : Prop :=
  ∀ (s : State) (i n : Nat) (v : Word) (off : BitVec 14), s.Inv → s.engine = .idle → s.resetLine = false → i < 1024 → n < 4 →
    (off.toNat = 0x1000 + 4 * i →
      (hostWrite s off 4 v).tin.read (4 * i + n) = BitVec.ofNat 8 (v.toNat / 2 ^ (8 * n)) ∧
      (∀ a, a / 4 ≠ i → (hostWrite s off 4 v).tin.read a = s.tin.read a) ∧
      SameBlock { s with tin := (hostWrite s off 4 v).tin } (hostWrite s off 4 v) ∧
      ∃ d, (hostRead s off 4).response = some (.data d) ∧ s.tin.read (4 * i + n) = BitVec.ofNat 8 (d.toNat / 2 ^ (8 * n))) ∧
    (off.toNat = 0x2000 + 4 * i →
      ∃ d, (hostRead s off 4).response = some (.data d) ∧ s.tout.read (4 * i + n) = BitVec.ofNat 8 (d.toNat / 2 ^ (8 * n)))

/-- R46, R351: the bits of STATUS, read at offset 0x0C with the number of each error code, and that a host write of STATUS, `Idle` or `Busy`, clears
ERRS where bit 1 is 1 and OVR where bit 2 is 1 and changes nothing else of the block. -/
def Obligations.StatusBitsAndClearing : Prop :=
  ∀ (s : State) (v : Word), s.resetLine = false →
    (∀ (e : ErrorCode) (c : Nat), (e, c) ∈ [(ErrorCode.ok, 0), (.illegal, 1), (.layout, 2), (.capacity, 3), (.range, 4),
        (.length, 5), (.bits, 6), (.text, 7)] → s.err = e →
      Shows s 0x000C ((if s.engine = .idle then 0 else 1) + 2 * s.errs.toNat + 4 * s.ovr.toNat + 256 * c)) ∧
    SameBlock { s with errs := s.errs && !v.getLsbD 1, ovr := s.ovr && !v.getLsbD 2 } (hostWrite s 0x000C 4 v)

/-- R47, R241: RESULT, read at offset 0x10 while the engine is `Idle`, holds the boolean in bit 0 and the number of the class code in bits 11:8, and reads 0 elsewhere. -/
def Obligations.ResultShowsBoolAndClassCode : Prop :=
  ∀ (s : State) (k : ClassCode) (c : Nat),
    (k, c) ∈ [(ClassCode.zeroNeg, 0), (.zeroPos, 1), (.infNeg, 2), (.infPos, 3), (.nanQuiet, 4), (.nanSignaling, 5), (.spsub, 6),
      (.lsub, 7), (.spnorm, 8), (.lnorm, 9), (.llt1, 10), (.one, 11), (.sgt1, 12), (.none, 15)] →
    s.resultClass = k → s.engine = .idle → s.resetLine = false → Shows s 0x0010 (s.resultBool.toNat + 256 * c)

/-- R74, R75: an access that is not 32 bits wide at a multiple of 4 gets a bus error and no data, and changes nothing of the
block, OVR included; a legal write to a read-only or unmapped offset is ignored, `Idle` or `Busy`, and gets no bus error; a legal
read of an unmapped offset returns 0. -/
def Obligations.RefusedAndIgnoredAccesses : Prop :=
  ∀ (s : State) (off : BitVec 14) (bytes : Nat) (v : Word), s.resetLine = false →
    ((bytes ≠ 4 ∨ off.toNat % 4 ≠ 0) →
      SameBlock s (hostRead s off bytes) ∧ (hostRead s off bytes).response = some .busError ∧
      SameBlock s (hostWrite s off bytes v) ∧ (hostWrite s off bytes v).response = some .busError) ∧
    (off.toNat % 4 = 0 → ¬OperandOffset off.toNat → off.toNat ≠ 0x0C →
      SameBlock s (hostWrite s off 4 v) ∧ (hostWrite s off 4 v).response ≠ some .busError) ∧
    (off.toNat % 4 = 0 → (off.toNat = 0x3C ∨ (0x58 ≤ off.toNat ∧ off.toNat < 0x100) ∨
        (0x100 ≤ off.toNat ∧ off.toNat < 0x300 ∧ 0x20 < off.toNat % 0x40) ∨
        (0x300 ≤ off.toNat ∧ off.toNat < 0x1000) ∨ 0x3000 ≤ off.toNat) →
      (hostRead s off 4).response = some (.data 0))

/-- A read changes nothing of the block; while the engine is `Idle` it returns the register's value, and while it is
`Busy` ID, CAPS, CMD, STATUS and the operand registers still do (R76, R386). At their offsets of R72, ID and CAPS read the values
of R48, CMD reads 0 (R44), PREC, DIN0 to DIN3 and TIN_LEN read what they hold, `Idle` or `Busy` (R41, R43, R45), and TOUT_LEN does
while the engine is `Idle` (R42). -/
def Obligations.ReadsHaveNoSideEffects : Prop :=
  ∀ (s : State) (off : BitVec 14), s.resetLine = false → off.toNat % 4 = 0 →
    SameBlock s (hostRead s off 4) ∧
    (s.engine = .idle → (hostRead s off 4).response = some (.data (readReg s (windowRegAt off.toNat)))) ∧
    (off.toNat = 0x00 ∨ off.toNat = 0x04 ∨ off.toNat = 0x0C ∨ OperandOffset off.toNat →
      (hostRead s off 4).response = some (.data (readReg s (windowRegAt off.toNat)))) ∧
    Shows s 0x0000 0x46504344 ∧ Shows s 0x0004 0x09080100 ∧ Shows s 0x0008 0 ∧ Shows s 0x0014 s.prec.toNat ∧
    Shows s 0x0040 s.din0.toNat ∧ Shows s 0x0044 s.din1.toNat ∧ Shows s 0x0048 s.din2.toNat ∧ Shows s 0x004C s.din3.toNat ∧
    Shows s 0x0050 s.tinLen.toNat ∧ (s.engine = .idle → Shows s 0x0054 s.toutLen.toNat)

/-- R50: offset 0x100 + 0x40k reads the size of c[k], and the eight words at 0x104 + 0x40k + 4j read its bits 32j+31 down to 32j,
while the engine is `Idle`; no legal write there changes anything of the block. -/
def Obligations.ContainerWindowShowsRegisters : Prop :=
  ∀ (s : State) (k : CReg), s.Inv → s.engine = .idle → s.resetLine = false →
    (∀ off : BitVec 14, off.toNat = 0x100 + 0x40 * indexOf k →
      ∃ d, (hostRead s off 4).response = some (.data d) ∧ d.toNat = (s.getC k).size) ∧
    (∀ (j : Nat) (off : BitVec 14), j < 8 → off.toNat = 0x104 + 0x40 * indexOf k + 4 * j →
      ∃ d, (hostRead s off 4).response = some (.data d) ∧ d.toNat = (s.getC k).bits / 2 ^ (32 * j) % 2 ^ 32) ∧
    (∀ (j : Nat) (off : BitVec 14) (v : Word), j < 9 → off.toNat = 0x100 + 0x40 * indexOf k + 4 * j →
      SameBlock s (hostWrite s off 4 v))

/-- A busy engine returns to `Idle` after finitely many steps: at most one more than the host accesses its latency lets pass,
whatever the host and the reset input do. That it returns is an inference the spec marks as its own (70_reset_and_hazards.md
section 2, "Every command terminates"); the bound is the model's (log 1). -/
def Obligations.BusyEngineFinishes : Prop :=
  ∀ (s : State) (w : Word), s.engine = .busy w → s.resetLine = false →
    ∃ n t, n ≤ s.wait + 1 ∧ Sys2Proof.core.run n s = .next t ∧ t.engine = .idle

/-- R384, R387, R122: a host that writes a command word to CMD and then waits (the macro DO) sees the command's meaning, performed
once on the state of the CMD write, whatever latency the open LAT gives; only the model's own fields may differ. That the host's
accesses are a list and its WAIT one event that stays pending is the model's choice (log 1, 3). -/
def Obligations.WaitingHostSeesTheCommandUnderEveryLatency : Prop :=
  ∀ (s : State) (i : Instr) (rest : List HostEvent), i.wellFormed = true → s.engine = .idle → s.resetLine = false →
    s.pending = macroDo i ++ rest →
    ∃ n t u, Sys2Proof.core.run n s = .next t ∧ exec i { s with engine := .busy (encode i) } = .next u ∧
      t.pending = rest ∧ t.response = some (.data (statusWord u)) ∧ SameBlock u t
end

