-- ==== Sys2Proof/Laws/Container.lean ====
section
/-! SUPPORT. The container functions of R142 keep the container's form, and what their bits are. -/

namespace Sys2Proof.Laws

open Sys2Proof.Machine

/-! Bits. -/

theorem bit_of_lt {c : Container} {i : Nat} (h : i < c.size) : c.bit i = c.bits.testBit i := by
  simp [Container.bit, h]

/-- Bits at and above the size read 0 (R34). -/
theorem bit_of_ge {c : Container} {i : Nat} (h : c.size ≤ i) : c.bit i = false := by
  simp [Container.bit, Nat.not_lt.mpr h]

/-- In a legal container every bit read is the stored bit (R33). -/
theorem bit_eq_testBit {c : Container} (h : c.wf) (i : Nat) : c.bit i = c.bits.testBit i := by
  rcases Nat.lt_or_ge i c.size with hi | hi
  · exact bit_of_lt hi
  · rw [bit_of_ge hi, Nat.testBit_lt_two_pow (Nat.lt_of_lt_of_le h.2 (Nat.pow_le_pow_right (by decide) hi))]

theorem bitSum_lt (f : Nat → Bool) (n : Nat) : bitSum f n < 2 ^ n := by
  induction n with
  | zero => simp [bitSum]
  | succ n ih => rw [bitSum, pow_succ]; cases f n <;> simp <;> omega

theorem testBit_bitSum (f : Nat → Bool) (n i : Nat) : (bitSum f n).testBit i = (decide (i < n) && f i) := by
  induction n with
  | zero => simp [bitSum]
  | succ n ih =>
    have hlt := bitSum_lt f n
    rw [bitSum, Nat.add_comm, Nat.mul_comm, Nat.testBit_two_pow_mul_add _ hlt]
    split
    · next h => rw [ih]; simp [h, Nat.lt_succ_of_lt h]
    · next h =>
      rcases Nat.lt_or_ge n i with h1 | h1
      · have : ¬i < n + 1 := by omega
        obtain ⟨d, hd⟩ : ∃ d, i - n = d + 1 := ⟨i - n - 1, by omega⟩
        cases f n <;> simp [this, hd, Nat.testBit_succ]
      · have : i = n := by omega
        subst this
        cases f i <;> simp

/-- Bits of a sub-range (R151). -/
theorem bit_sub (x : Container) (lo hi i : Nat) : (sub x lo hi).bit i = (decide (i < hi - lo) && x.bit (lo + i)) := by
  have h : (sub x lo hi).bit i = (decide (i < hi - lo) && (decide (i < hi - lo) && x.bit (lo + i))) := by
    rw [Container.bit, sub, testBit_bitSum]
  rw [h]
  cases decide (i < hi - lo) <;> rfl

/-! Form. -/

theorem wf_empty : Container.empty.wf := by decide

theorem wf_zeros {n : Nat} (h : n ≤ 256) : (zeros n).wf := ⟨h, Nat.two_pow_pos n⟩

theorem wf_onesC {n : Nat} (h : n ≤ 256) : (onesC n).wf :=
  ⟨h, Nat.sub_lt (Nat.two_pow_pos n) (by decide)⟩

theorem wf_fld {n : Nat} (v : Nat) (h : n ≤ 256) : (fld n v).wf := ⟨h, Nat.mod_lt _ (Nat.two_pow_pos n)⟩

theorem cat_bits_lt {x y : Container} (hx : x.bits < 2 ^ x.size) (hy : y.bits < 2 ^ y.size) :
    (cat x y).bits < 2 ^ (cat x y).size := by
  show x.bits * 2 ^ y.size + y.bits < 2 ^ (x.size + y.size)
  calc x.bits * 2 ^ y.size + y.bits < x.bits * 2 ^ y.size + 2 ^ y.size := by omega
    _ = (x.bits + 1) * 2 ^ y.size := by ring
    _ ≤ 2 ^ x.size * 2 ^ y.size := Nat.mul_le_mul_right _ hx
    _ = 2 ^ (x.size + y.size) := by rw [pow_add]

theorem wf_cat {x y : Container} (hx : x.wf) (hy : y.wf) (h : x.size + y.size ≤ 256) : (cat x y).wf :=
  ⟨h, cat_bits_lt hx.2 hy.2⟩

theorem wf_rsLow {x : Container} (hx : x.wf) {n : Nat} (h : n ≤ 256) : (rsLow x n).wf := by
  unfold rsLow
  split
  · next hn =>
    refine ⟨h, ?_⟩
    show x.bits * 2 ^ (n - x.size) < 2 ^ n
    calc x.bits * 2 ^ (n - x.size) < 2 ^ x.size * 2 ^ (n - x.size) :=
          Nat.mul_lt_mul_of_pos_right hx.2 (Nat.two_pow_pos _)
      _ = 2 ^ n := by rw [← pow_add, Nat.add_sub_cancel' hn]
  · next hn =>
    refine ⟨h, ?_⟩
    show x.bits / 2 ^ (x.size - n) < 2 ^ n
    rw [Nat.div_lt_iff_lt_mul (Nat.two_pow_pos _), ← pow_add, Nat.add_sub_cancel' (by omega)]
    exact hx.2

theorem wf_rsHigh (x : Container) {n : Nat} (h : n ≤ 256) : (rsHigh x n).wf := ⟨h, Nat.mod_lt _ (Nat.two_pow_pos n)⟩

theorem wf_sub (x : Container) {lo hi : Nat} (h : hi ≤ 256) : (sub x lo hi).wf :=
  ⟨Nat.le_trans (Nat.sub_le hi lo) h, bitSum_lt _ _⟩

theorem bitTextValue_append (t : List Byte) (b : Byte) :
    bitTextValue (t ++ [b]) = 2 * bitTextValue t + (b == charOne).toNat := by
  simp [bitTextValue, List.foldl_append]

theorem bitTextValue_lt (t : List Byte) : bitTextValue t < 2 ^ t.length := by
  induction t using List.reverseRecOn with
  | nil => simp [bitTextValue]
  | append_singleton t b ih =>
    rw [bitTextValue_append, List.length_append, List.length_singleton, pow_succ]
    cases (b == charOne) <;> simp <;> omega

theorem wf_parseBits {t : List Byte} (h : t.length ≤ 256) : (parseBits t).wf := ⟨h, bitTextValue_lt t⟩

theorem wf_withBit {d : Container} (hd : d.wf) {n : Nat} (hn : n < d.size) (p : Bool) : (d.withBit n p).wf := by
  have hbit : d.bit n = d.bits.testBit n := bit_of_lt hn
  have hlo : d.bits % 2 ^ n < 2 ^ n := Nat.mod_lt _ (Nat.two_pow_pos n)
  -- the bits of d above, at and below position n
  have hsplit : d.bits = 2 ^ (n + 1) * (d.bits / 2 ^ (n + 1)) + (d.bit n).toNat * 2 ^ n + d.bits % 2 ^ n := by
    have h1 := Nat.div_add_mod d.bits (2 ^ (n + 1))
    have h2 : d.bits % 2 ^ (n + 1) = (d.bits.testBit n).toNat * 2 ^ n + d.bits % 2 ^ n := by
      have h3 : d.bits % 2 ^ (n + 1) = d.bits % 2 ^ n + 2 ^ n * (d.bits / 2 ^ n % 2) := by
        rw [pow_succ, Nat.mod_mul]
      have h4 : d.bits / 2 ^ n % 2 = (d.bits.testBit n).toNat := by rw [Nat.toNat_testBit]
      rw [h3, h4, Nat.mul_comm, Nat.add_comm]
    rw [hbit]; omega
  have hpow : 2 ^ (n + 1) * 2 ^ (d.size - (n + 1)) = 2 ^ d.size := by
    rw [← pow_add, Nat.add_sub_cancel' hn]
  have hhi : d.bits / 2 ^ (n + 1) + 1 ≤ 2 ^ (d.size - (n + 1)) := by
    have := Nat.div_lt_of_lt_mul (by rw [hpow]; exact hd.2 : d.bits < 2 ^ (n + 1) * 2 ^ (d.size - (n + 1)))
    omega
  have hmul : 2 ^ (n + 1) * (d.bits / 2 ^ (n + 1)) + 2 ^ (n + 1) ≤ 2 ^ d.size := by
    calc _ = 2 ^ (n + 1) * (d.bits / 2 ^ (n + 1) + 1) := by ring
      _ ≤ 2 ^ (n + 1) * 2 ^ (d.size - (n + 1)) := Nat.mul_le_mul_left _ hhi
      _ = _ := hpow
  have hs : 2 ^ (n + 1) = 2 ^ n + 2 ^ n := by rw [pow_succ]; omega
  refine ⟨hd.1, ?_⟩
  show d.bits - (d.bit n).toNat * 2 ^ n + p.toNat * 2 ^ n < 2 ^ d.size
  cases hb : d.bit n <;> cases p <;> simp only [hb, Bool.toNat_true, Bool.toNat_false] at hsplit ⊢ <;> omega

/-! Patterns. -/

theorem pack_size {l : Layout} (h : l.sw = 0 ∨ l.sw = 1) (s : Bool) (e m : Nat) : (l.pack s e m).size = l.width := by
  rcases h with h | h <;> simp [Layout.pack, Layout.width, h, cat, fld]; try omega

theorem wf_pack {l : Layout} (h : l.valid) (s : Bool) (e m : Nat) : (l.pack s e m).wf := by
  have hw : l.sw + l.ew + l.mw ≤ 256 := h.2.2.2.1
  have he : l.ew ≤ 256 := by omega
  have hm : l.mw ≤ 256 := by omega
  have hc : (cat (fld l.ew e) (fld l.mw m)).wf := wf_cat (wf_fld e he) (wf_fld m hm) (by simp only [fld]; omega)
  unfold Layout.pack
  split
  · next hs => exact wf_cat (wf_fld _ (by decide)) hc (by simp only [fld, cat]; omega)
  · exact hc

theorem wf_constructNaN {l : Layout} (h : l.valid) (sig : Bool) (p : Container) : (constructNaN l sig p).wf := by
  have hw : l.sw + l.ew + l.mw ≤ 256 := h.2.2.2.1
  have hm : 2 ≤ l.mw := h.2.2.1
  have h1 : (cat (onesC l.ew) (fld 1 (1 - sig.toNat))).wf :=
    wf_cat (wf_onesC (by omega)) (wf_fld _ (by decide)) (by simp only [onesC, fld]; omega)
  have h2 : (cat (cat (onesC l.ew) (fld 1 (1 - sig.toNat))) (rsHigh p (l.mw - 2))).wf :=
    wf_cat h1 (wf_rsHigh p (by omega)) (by simp only [onesC, fld, cat, rsHigh]; omega)
  have h3 := wf_cat h2 (wf_fld 1 (by decide : 1 ≤ 256)) (by simp only [onesC, fld, cat, rsHigh]; omega)
  unfold constructNaN
  split
  · exact wf_cat (wf_fld _ (by decide)) h3 (by simp only [onesC, fld, cat, rsHigh]; omega)
  · exact h3

/-- Every landmark pattern is a legal container (R233). -/
theorem wf_construct {l : Layout} (h : l.valid) (v : SpecialValue) : (construct l v).wf := by
  cases v with
  | nan sig p => exact wf_constructNaN h sig p
  | _ => exact wf_pack h _ _ _

/-- Every landmark pattern has the layout's width (R233, R238). -/
theorem construct_size {l : Layout} (h : l.valid) (v : SpecialValue) : (construct l v).size = l.width := by
  have hm : 2 ≤ l.mw := h.2.2.1
  cases v with
  | nan sig p =>
    rcases h.1 with hs | hs <;> simp [construct, constructNaN, Layout.width, hs, cat, fld, onesC, rsHigh] <;> omega
  | _ => exact pack_size h.1 _ _ _

/-- The result of ENCODE is a legal container (R284). -/
theorem wf_encodeDecimal {l : Layout} (h : l.valid) (s : Bool) (x : Decimal) : (encodeDecimal l s x).wf := by
  have hw : l.width ≤ 256 := h.2.2.2.1
  unfold encodeDecimal assemble incrementPattern
  simp only
  split
  · exact wf_construct h _
  · split
    · exact wf_construct h _
    · split
      · exact wf_construct h _
      · split
        · split
          · exact wf_construct h _
          · exact ⟨hw, Nat.mod_lt _ (Nat.two_pow_pos _)⟩
        · exact wf_pack h _ _ _

end Sys2Proof.Laws
end

