-- ==== Sys2Proof/Laws/Encoding.lean ====
section
/-! SUPPORT. Fields of a command word: what a placed field leaves free, and how the opcode map is searched. -/

namespace Sys2Proof.Laws

open Sys2Proof

/-- The bits a field of `len` bits at `lo` occupies. -/
def fieldMask (lo len : Nat) : Word := BitVec.ofNat 32 (2 ^ len - 1) <<< lo

/-- A value that fits its field occupies no bit outside it. -/
theorem placeField_within {lo len v : Nat} (h : v < 2 ^ len) :
    placeField lo v &&& fieldMask lo len = placeField lo v := by
  unfold placeField fieldMask
  rw [← BitVec.shiftLeft_and_distrib, ← BitVec.ofNat_and, Nat.and_two_pow_sub_one_eq_mod, Nat.mod_eq_of_lt h]

/-- A value that fits its field is invisible through a mask that leaves the field free (R114). -/
theorem placeField_free {lo len v : Nat} {m : Word} (h : v < 2 ^ len) (hm : fieldMask lo len &&& m = 0#32) :
    placeField lo v &&& m = 0#32 := by
  rw [← placeField_within h, BitVec.and_assoc, hm, BitVec.and_zero]

theorem toField_lt (r : CReg) : r.toField < 2 ^ 3 := by cases r <;> decide

theorem flag_lt (b : Bool) : b.toNat < 2 ^ 1 := by cases b <;> decide

theorem ofField_toField (r : CReg) : CReg.ofField r.toField = r := by cases r <;> rfl

/-- In a list of rows of which a word fits at most one, the search of R119 finds the row the word fits. -/
theorem find_row {rows : List OpRow} {w : Word} {r : OpRow} (hr : r ∈ rows) (hf : r.fits w = true)
    (hx : ∀ q ∈ rows, q.fits w = true → q = r) : rows.find? (fun q => q.fits w) = some r := by
  induction rows with
  | nil => cases hr
  | cons q rows ih =>
    by_cases hq : q.fits w = true
    · have : q = r := hx q (by simp) hq
      subst this
      simp [List.find?, hf]
    · have hne : r ∈ rows := by
        rcases List.mem_cons.mp hr with rfl | h
        · exact absurd hf hq
        · exact h
      simp only [List.find?, Bool.not_eq_true] at hq ⊢
      rw [hq]
      exact ih hne fun p hp => hx p (List.mem_cons_of_mem q hp)

end Sys2Proof.Laws
end

