-- ==== Sys2Proof/Laws/State.lean ====
section
/-! SUPPORT. One lemma per field per update of the state, so that no later proof unfolds a record update. -/

namespace Sys2Proof.Laws

open Sys2Proof.Machine

variable (s : State)


@[simp] theorem setC_engine (k : CReg) (v : Container) : (s.setC k v).engine = s.engine := rfl
@[simp] theorem setC_regs (k : CReg) (v : Container) : (s.setC k v).regs = s.regs.set k v := rfl
@[simp] theorem setC_lr (k : CReg) (v : Container) : (s.setC k v).lr = s.lr := rfl
@[simp] theorem setC_tin (k : CReg) (v : Container) : (s.setC k v).tin = s.tin := rfl
@[simp] theorem setC_tinLen (k : CReg) (v : Container) : (s.setC k v).tinLen = s.tinLen := rfl
@[simp] theorem setC_tout (k : CReg) (v : Container) : (s.setC k v).tout = s.tout := rfl
@[simp] theorem setC_toutLen (k : CReg) (v : Container) : (s.setC k v).toutLen = s.toutLen := rfl
@[simp] theorem setC_din0 (k : CReg) (v : Container) : (s.setC k v).din0 = s.din0 := rfl
@[simp] theorem setC_din1 (k : CReg) (v : Container) : (s.setC k v).din1 = s.din1 := rfl
@[simp] theorem setC_din2 (k : CReg) (v : Container) : (s.setC k v).din2 = s.din2 := rfl
@[simp] theorem setC_din3 (k : CReg) (v : Container) : (s.setC k v).din3 = s.din3 := rfl
@[simp] theorem setC_prec (k : CReg) (v : Container) : (s.setC k v).prec = s.prec := rfl
@[simp] theorem setC_err (k : CReg) (v : Container) : (s.setC k v).err = s.err := rfl
@[simp] theorem setC_errs (k : CReg) (v : Container) : (s.setC k v).errs = s.errs := rfl
@[simp] theorem setC_ovr (k : CReg) (v : Container) : (s.setC k v).ovr = s.ovr := rfl
@[simp] theorem setC_resultBool (k : CReg) (v : Container) : (s.setC k v).resultBool = s.resultBool := rfl
@[simp] theorem setC_resultClass (k : CReg) (v : Container) : (s.setC k v).resultClass = s.resultClass := rfl
@[simp] theorem setC_resetLine (k : CReg) (v : Container) : (s.setC k v).resetLine = s.resetLine := rfl
@[simp] theorem setC_wait (k : CReg) (v : Container) : (s.setC k v).wait = s.wait := rfl
@[simp] theorem setC_draws (k : CReg) (v : Container) : (s.setC k v).draws = s.draws := rfl
@[simp] theorem setC_pending (k : CReg) (v : Container) : (s.setC k v).pending = s.pending := rfl
@[simp] theorem setC_response (k : CReg) (v : Container) : (s.setC k v).response = s.response := rfl

@[simp] theorem putTout_engine (t : List Byte) : (s.putTout t).engine = s.engine := rfl
@[simp] theorem putTout_regs (t : List Byte) : (s.putTout t).regs = s.regs := rfl
@[simp] theorem putTout_lr (t : List Byte) : (s.putTout t).lr = s.lr := rfl
@[simp] theorem putTout_tin (t : List Byte) : (s.putTout t).tin = s.tin := rfl
@[simp] theorem putTout_tinLen (t : List Byte) : (s.putTout t).tinLen = s.tinLen := rfl
@[simp] theorem putTout_tout (t : List Byte) : (s.putTout t).tout = Memory.ofBytes t := rfl
@[simp] theorem putTout_toutLen (t : List Byte) : (s.putTout t).toutLen = BitVec.ofNat 13 t.length := rfl
@[simp] theorem putTout_din0 (t : List Byte) : (s.putTout t).din0 = s.din0 := rfl
@[simp] theorem putTout_din1 (t : List Byte) : (s.putTout t).din1 = s.din1 := rfl
@[simp] theorem putTout_din2 (t : List Byte) : (s.putTout t).din2 = s.din2 := rfl
@[simp] theorem putTout_din3 (t : List Byte) : (s.putTout t).din3 = s.din3 := rfl
@[simp] theorem putTout_prec (t : List Byte) : (s.putTout t).prec = s.prec := rfl
@[simp] theorem putTout_err (t : List Byte) : (s.putTout t).err = s.err := rfl
@[simp] theorem putTout_errs (t : List Byte) : (s.putTout t).errs = s.errs := rfl
@[simp] theorem putTout_ovr (t : List Byte) : (s.putTout t).ovr = s.ovr := rfl
@[simp] theorem putTout_resultBool (t : List Byte) : (s.putTout t).resultBool = s.resultBool := rfl
@[simp] theorem putTout_resultClass (t : List Byte) : (s.putTout t).resultClass = s.resultClass := rfl
@[simp] theorem putTout_resetLine (t : List Byte) : (s.putTout t).resetLine = s.resetLine := rfl
@[simp] theorem putTout_wait (t : List Byte) : (s.putTout t).wait = s.wait := rfl
@[simp] theorem putTout_draws (t : List Byte) : (s.putTout t).draws = s.draws := rfl
@[simp] theorem putTout_pending (t : List Byte) : (s.putTout t).pending = s.pending := rfl
@[simp] theorem putTout_response (t : List Byte) : (s.putTout t).response = s.response := rfl

@[simp] theorem setBool_engine (b : Bool) : (s.setBool b).engine = s.engine := rfl
@[simp] theorem setBool_regs (b : Bool) : (s.setBool b).regs = s.regs := rfl
@[simp] theorem setBool_lr (b : Bool) : (s.setBool b).lr = s.lr := rfl
@[simp] theorem setBool_tin (b : Bool) : (s.setBool b).tin = s.tin := rfl
@[simp] theorem setBool_tinLen (b : Bool) : (s.setBool b).tinLen = s.tinLen := rfl
@[simp] theorem setBool_tout (b : Bool) : (s.setBool b).tout = s.tout := rfl
@[simp] theorem setBool_toutLen (b : Bool) : (s.setBool b).toutLen = s.toutLen := rfl
@[simp] theorem setBool_din0 (b : Bool) : (s.setBool b).din0 = s.din0 := rfl
@[simp] theorem setBool_din1 (b : Bool) : (s.setBool b).din1 = s.din1 := rfl
@[simp] theorem setBool_din2 (b : Bool) : (s.setBool b).din2 = s.din2 := rfl
@[simp] theorem setBool_din3 (b : Bool) : (s.setBool b).din3 = s.din3 := rfl
@[simp] theorem setBool_prec (b : Bool) : (s.setBool b).prec = s.prec := rfl
@[simp] theorem setBool_err (b : Bool) : (s.setBool b).err = s.err := rfl
@[simp] theorem setBool_errs (b : Bool) : (s.setBool b).errs = s.errs := rfl
@[simp] theorem setBool_ovr (b : Bool) : (s.setBool b).ovr = s.ovr := rfl
@[simp] theorem setBool_resultBool (b : Bool) : (s.setBool b).resultBool = b := rfl
@[simp] theorem setBool_resultClass (b : Bool) : (s.setBool b).resultClass = s.resultClass := rfl
@[simp] theorem setBool_resetLine (b : Bool) : (s.setBool b).resetLine = s.resetLine := rfl
@[simp] theorem setBool_wait (b : Bool) : (s.setBool b).wait = s.wait := rfl
@[simp] theorem setBool_draws (b : Bool) : (s.setBool b).draws = s.draws := rfl
@[simp] theorem setBool_pending (b : Bool) : (s.setBool b).pending = s.pending := rfl
@[simp] theorem setBool_response (b : Bool) : (s.setBool b).response = s.response := rfl

@[simp] theorem setClass_engine (k : ClassCode) : (s.setClass k).engine = s.engine := rfl
@[simp] theorem setClass_regs (k : ClassCode) : (s.setClass k).regs = s.regs := rfl
@[simp] theorem setClass_lr (k : ClassCode) : (s.setClass k).lr = s.lr := rfl
@[simp] theorem setClass_tin (k : ClassCode) : (s.setClass k).tin = s.tin := rfl
@[simp] theorem setClass_tinLen (k : ClassCode) : (s.setClass k).tinLen = s.tinLen := rfl
@[simp] theorem setClass_tout (k : ClassCode) : (s.setClass k).tout = s.tout := rfl
@[simp] theorem setClass_toutLen (k : ClassCode) : (s.setClass k).toutLen = s.toutLen := rfl
@[simp] theorem setClass_din0 (k : ClassCode) : (s.setClass k).din0 = s.din0 := rfl
@[simp] theorem setClass_din1 (k : ClassCode) : (s.setClass k).din1 = s.din1 := rfl
@[simp] theorem setClass_din2 (k : ClassCode) : (s.setClass k).din2 = s.din2 := rfl
@[simp] theorem setClass_din3 (k : ClassCode) : (s.setClass k).din3 = s.din3 := rfl
@[simp] theorem setClass_prec (k : ClassCode) : (s.setClass k).prec = s.prec := rfl
@[simp] theorem setClass_err (k : ClassCode) : (s.setClass k).err = s.err := rfl
@[simp] theorem setClass_errs (k : ClassCode) : (s.setClass k).errs = s.errs := rfl
@[simp] theorem setClass_ovr (k : ClassCode) : (s.setClass k).ovr = s.ovr := rfl
@[simp] theorem setClass_resultBool (k : ClassCode) : (s.setClass k).resultBool = s.resultBool := rfl
@[simp] theorem setClass_resultClass (k : ClassCode) : (s.setClass k).resultClass = k := rfl
@[simp] theorem setClass_resetLine (k : ClassCode) : (s.setClass k).resetLine = s.resetLine := rfl
@[simp] theorem setClass_wait (k : ClassCode) : (s.setClass k).wait = s.wait := rfl
@[simp] theorem setClass_draws (k : ClassCode) : (s.setClass k).draws = s.draws := rfl
@[simp] theorem setClass_pending (k : ClassCode) : (s.setClass k).pending = s.pending := rfl
@[simp] theorem setClass_response (k : ClassCode) : (s.setClass k).response = s.response := rfl

@[simp] theorem completeOk_engine : (completeOk s).engine = .idle := rfl
@[simp] theorem completeOk_regs : (completeOk s).regs = s.regs := rfl
@[simp] theorem completeOk_lr : (completeOk s).lr = s.lr := rfl
@[simp] theorem completeOk_tin : (completeOk s).tin = s.tin := rfl
@[simp] theorem completeOk_tinLen : (completeOk s).tinLen = s.tinLen := rfl
@[simp] theorem completeOk_tout : (completeOk s).tout = s.tout := rfl
@[simp] theorem completeOk_toutLen : (completeOk s).toutLen = s.toutLen := rfl
@[simp] theorem completeOk_din0 : (completeOk s).din0 = s.din0 := rfl
@[simp] theorem completeOk_din1 : (completeOk s).din1 = s.din1 := rfl
@[simp] theorem completeOk_din2 : (completeOk s).din2 = s.din2 := rfl
@[simp] theorem completeOk_din3 : (completeOk s).din3 = s.din3 := rfl
@[simp] theorem completeOk_prec : (completeOk s).prec = s.prec := rfl
@[simp] theorem completeOk_err : (completeOk s).err = .ok := rfl
@[simp] theorem completeOk_errs : (completeOk s).errs = s.errs := rfl
@[simp] theorem completeOk_ovr : (completeOk s).ovr = s.ovr := rfl
@[simp] theorem completeOk_resultBool : (completeOk s).resultBool = s.resultBool := rfl
@[simp] theorem completeOk_resultClass : (completeOk s).resultClass = s.resultClass := rfl
@[simp] theorem completeOk_resetLine : (completeOk s).resetLine = s.resetLine := rfl
@[simp] theorem completeOk_wait : (completeOk s).wait = s.wait := rfl
@[simp] theorem completeOk_draws : (completeOk s).draws = s.draws := rfl
@[simp] theorem completeOk_pending : (completeOk s).pending = s.pending := rfl
@[simp] theorem completeOk_response : (completeOk s).response = s.response := rfl

@[simp] theorem raiseError_engine (e : ErrorCode) : (raiseError e s).engine = .idle := rfl
@[simp] theorem raiseError_regs (e : ErrorCode) : (raiseError e s).regs = s.regs := rfl
@[simp] theorem raiseError_lr (e : ErrorCode) : (raiseError e s).lr = s.lr := rfl
@[simp] theorem raiseError_tin (e : ErrorCode) : (raiseError e s).tin = s.tin := rfl
@[simp] theorem raiseError_tinLen (e : ErrorCode) : (raiseError e s).tinLen = s.tinLen := rfl
@[simp] theorem raiseError_tout (e : ErrorCode) : (raiseError e s).tout = s.tout := rfl
@[simp] theorem raiseError_toutLen (e : ErrorCode) : (raiseError e s).toutLen = s.toutLen := rfl
@[simp] theorem raiseError_din0 (e : ErrorCode) : (raiseError e s).din0 = s.din0 := rfl
@[simp] theorem raiseError_din1 (e : ErrorCode) : (raiseError e s).din1 = s.din1 := rfl
@[simp] theorem raiseError_din2 (e : ErrorCode) : (raiseError e s).din2 = s.din2 := rfl
@[simp] theorem raiseError_din3 (e : ErrorCode) : (raiseError e s).din3 = s.din3 := rfl
@[simp] theorem raiseError_prec (e : ErrorCode) : (raiseError e s).prec = s.prec := rfl
@[simp] theorem raiseError_err (e : ErrorCode) : (raiseError e s).err = e := rfl
@[simp] theorem raiseError_errs (e : ErrorCode) : (raiseError e s).errs = true := rfl
@[simp] theorem raiseError_ovr (e : ErrorCode) : (raiseError e s).ovr = s.ovr := rfl
@[simp] theorem raiseError_resultBool (e : ErrorCode) : (raiseError e s).resultBool = s.resultBool := rfl
@[simp] theorem raiseError_resultClass (e : ErrorCode) : (raiseError e s).resultClass = s.resultClass := rfl
@[simp] theorem raiseError_resetLine (e : ErrorCode) : (raiseError e s).resetLine = s.resetLine := rfl
@[simp] theorem raiseError_wait (e : ErrorCode) : (raiseError e s).wait = s.wait := rfl
@[simp] theorem raiseError_draws (e : ErrorCode) : (raiseError e s).draws = s.draws := rfl
@[simp] theorem raiseError_pending (e : ErrorCode) : (raiseError e s).pending = s.pending := rfl
@[simp] theorem raiseError_response (e : ErrorCode) : (raiseError e s).response = s.response := rfl

@[simp] theorem writeStatus_engine (v : Word) : (s.writeStatus v).engine = s.engine := rfl
@[simp] theorem writeStatus_regs (v : Word) : (s.writeStatus v).regs = s.regs := rfl
@[simp] theorem writeStatus_lr (v : Word) : (s.writeStatus v).lr = s.lr := rfl
@[simp] theorem writeStatus_tin (v : Word) : (s.writeStatus v).tin = s.tin := rfl
@[simp] theorem writeStatus_tinLen (v : Word) : (s.writeStatus v).tinLen = s.tinLen := rfl
@[simp] theorem writeStatus_tout (v : Word) : (s.writeStatus v).tout = s.tout := rfl
@[simp] theorem writeStatus_toutLen (v : Word) : (s.writeStatus v).toutLen = s.toutLen := rfl
@[simp] theorem writeStatus_din0 (v : Word) : (s.writeStatus v).din0 = s.din0 := rfl
@[simp] theorem writeStatus_din1 (v : Word) : (s.writeStatus v).din1 = s.din1 := rfl
@[simp] theorem writeStatus_din2 (v : Word) : (s.writeStatus v).din2 = s.din2 := rfl
@[simp] theorem writeStatus_din3 (v : Word) : (s.writeStatus v).din3 = s.din3 := rfl
@[simp] theorem writeStatus_prec (v : Word) : (s.writeStatus v).prec = s.prec := rfl
@[simp] theorem writeStatus_err (v : Word) : (s.writeStatus v).err = s.err := rfl
@[simp] theorem writeStatus_errs (v : Word) : (s.writeStatus v).errs = (s.errs && !v.getLsbD 1) := rfl
@[simp] theorem writeStatus_ovr (v : Word) : (s.writeStatus v).ovr = (s.ovr && !v.getLsbD 2) := rfl
@[simp] theorem writeStatus_resultBool (v : Word) : (s.writeStatus v).resultBool = s.resultBool := rfl
@[simp] theorem writeStatus_resultClass (v : Word) : (s.writeStatus v).resultClass = s.resultClass := rfl
@[simp] theorem writeStatus_resetLine (v : Word) : (s.writeStatus v).resetLine = s.resetLine := rfl
@[simp] theorem writeStatus_wait (v : Word) : (s.writeStatus v).wait = s.wait := rfl
@[simp] theorem writeStatus_draws (v : Word) : (s.writeStatus v).draws = s.draws := rfl
@[simp] theorem writeStatus_pending (v : Word) : (s.writeStatus v).pending = s.pending := rfl
@[simp] theorem writeStatus_response (v : Word) : (s.writeStatus v).response = s.response := rfl

@[simp] theorem setOverrun_engine : (s.setOverrun).engine = s.engine := rfl
@[simp] theorem setOverrun_regs : (s.setOverrun).regs = s.regs := rfl
@[simp] theorem setOverrun_lr : (s.setOverrun).lr = s.lr := rfl
@[simp] theorem setOverrun_tin : (s.setOverrun).tin = s.tin := rfl
@[simp] theorem setOverrun_tinLen : (s.setOverrun).tinLen = s.tinLen := rfl
@[simp] theorem setOverrun_tout : (s.setOverrun).tout = s.tout := rfl
@[simp] theorem setOverrun_toutLen : (s.setOverrun).toutLen = s.toutLen := rfl
@[simp] theorem setOverrun_din0 : (s.setOverrun).din0 = s.din0 := rfl
@[simp] theorem setOverrun_din1 : (s.setOverrun).din1 = s.din1 := rfl
@[simp] theorem setOverrun_din2 : (s.setOverrun).din2 = s.din2 := rfl
@[simp] theorem setOverrun_din3 : (s.setOverrun).din3 = s.din3 := rfl
@[simp] theorem setOverrun_prec : (s.setOverrun).prec = s.prec := rfl
@[simp] theorem setOverrun_err : (s.setOverrun).err = s.err := rfl
@[simp] theorem setOverrun_errs : (s.setOverrun).errs = s.errs := rfl
@[simp] theorem setOverrun_ovr : (s.setOverrun).ovr = true := rfl
@[simp] theorem setOverrun_resultBool : (s.setOverrun).resultBool = s.resultBool := rfl
@[simp] theorem setOverrun_resultClass : (s.setOverrun).resultClass = s.resultClass := rfl
@[simp] theorem setOverrun_resetLine : (s.setOverrun).resetLine = s.resetLine := rfl
@[simp] theorem setOverrun_wait : (s.setOverrun).wait = s.wait := rfl
@[simp] theorem setOverrun_draws : (s.setOverrun).draws = s.draws := rfl
@[simp] theorem setOverrun_pending : (s.setOverrun).pending = s.pending := rfl
@[simp] theorem setOverrun_response : (s.setOverrun).response = s.response := rfl

@[simp] theorem respond_engine (r : BusResponse) : (s.respond r).engine = s.engine := rfl
@[simp] theorem respond_regs (r : BusResponse) : (s.respond r).regs = s.regs := rfl
@[simp] theorem respond_lr (r : BusResponse) : (s.respond r).lr = s.lr := rfl
@[simp] theorem respond_tin (r : BusResponse) : (s.respond r).tin = s.tin := rfl
@[simp] theorem respond_tinLen (r : BusResponse) : (s.respond r).tinLen = s.tinLen := rfl
@[simp] theorem respond_tout (r : BusResponse) : (s.respond r).tout = s.tout := rfl
@[simp] theorem respond_toutLen (r : BusResponse) : (s.respond r).toutLen = s.toutLen := rfl
@[simp] theorem respond_din0 (r : BusResponse) : (s.respond r).din0 = s.din0 := rfl
@[simp] theorem respond_din1 (r : BusResponse) : (s.respond r).din1 = s.din1 := rfl
@[simp] theorem respond_din2 (r : BusResponse) : (s.respond r).din2 = s.din2 := rfl
@[simp] theorem respond_din3 (r : BusResponse) : (s.respond r).din3 = s.din3 := rfl
@[simp] theorem respond_prec (r : BusResponse) : (s.respond r).prec = s.prec := rfl
@[simp] theorem respond_err (r : BusResponse) : (s.respond r).err = s.err := rfl
@[simp] theorem respond_errs (r : BusResponse) : (s.respond r).errs = s.errs := rfl
@[simp] theorem respond_ovr (r : BusResponse) : (s.respond r).ovr = s.ovr := rfl
@[simp] theorem respond_resultBool (r : BusResponse) : (s.respond r).resultBool = s.resultBool := rfl
@[simp] theorem respond_resultClass (r : BusResponse) : (s.respond r).resultClass = s.resultClass := rfl
@[simp] theorem respond_resetLine (r : BusResponse) : (s.respond r).resetLine = s.resetLine := rfl
@[simp] theorem respond_wait (r : BusResponse) : (s.respond r).wait = s.wait := rfl
@[simp] theorem respond_draws (r : BusResponse) : (s.respond r).draws = s.draws := rfl
@[simp] theorem respond_pending (r : BusResponse) : (s.respond r).pending = s.pending := rfl
@[simp] theorem respond_response (r : BusResponse) : (s.respond r).response = some r := rfl

@[simp] theorem startCommand_engine (w : Word) : (startCommand s w).engine = .busy w := rfl
@[simp] theorem startCommand_regs (w : Word) : (startCommand s w).regs = s.regs := rfl
@[simp] theorem startCommand_lr (w : Word) : (startCommand s w).lr = s.lr := rfl
@[simp] theorem startCommand_tin (w : Word) : (startCommand s w).tin = s.tin := rfl
@[simp] theorem startCommand_tinLen (w : Word) : (startCommand s w).tinLen = s.tinLen := rfl
@[simp] theorem startCommand_tout (w : Word) : (startCommand s w).tout = s.tout := rfl
@[simp] theorem startCommand_toutLen (w : Word) : (startCommand s w).toutLen = s.toutLen := rfl
@[simp] theorem startCommand_din0 (w : Word) : (startCommand s w).din0 = s.din0 := rfl
@[simp] theorem startCommand_din1 (w : Word) : (startCommand s w).din1 = s.din1 := rfl
@[simp] theorem startCommand_din2 (w : Word) : (startCommand s w).din2 = s.din2 := rfl
@[simp] theorem startCommand_din3 (w : Word) : (startCommand s w).din3 = s.din3 := rfl
@[simp] theorem startCommand_prec (w : Word) : (startCommand s w).prec = s.prec := rfl
@[simp] theorem startCommand_err (w : Word) : (startCommand s w).err = s.err := rfl
@[simp] theorem startCommand_errs (w : Word) : (startCommand s w).errs = s.errs := rfl
@[simp] theorem startCommand_ovr (w : Word) : (startCommand s w).ovr = s.ovr := rfl
@[simp] theorem startCommand_resultBool (w : Word) : (startCommand s w).resultBool = s.resultBool := rfl
@[simp] theorem startCommand_resultClass (w : Word) : (startCommand s w).resultClass = s.resultClass := rfl
@[simp] theorem startCommand_resetLine (w : Word) : (startCommand s w).resetLine = s.resetLine := rfl
@[simp] theorem startCommand_wait (w : Word) : (startCommand s w).wait = Config.latency w s := rfl
@[simp] theorem startCommand_draws (w : Word) : (startCommand s w).draws = s.draws + 1 := rfl
@[simp] theorem startCommand_pending (w : Word) : (startCommand s w).pending = s.pending := rfl
@[simp] theorem startCommand_response (w : Word) : (startCommand s w).response = s.response := rfl

@[simp] theorem atCommand_engine (w : Word) : (s.atCommand w).engine = .busy w := rfl
@[simp] theorem atCommand_regs (w : Word) : (s.atCommand w).regs = s.regs := rfl
@[simp] theorem atCommand_lr (w : Word) : (s.atCommand w).lr = s.lr := rfl
@[simp] theorem atCommand_tin (w : Word) : (s.atCommand w).tin = s.tin := rfl
@[simp] theorem atCommand_tinLen (w : Word) : (s.atCommand w).tinLen = s.tinLen := rfl
@[simp] theorem atCommand_tout (w : Word) : (s.atCommand w).tout = s.tout := rfl
@[simp] theorem atCommand_toutLen (w : Word) : (s.atCommand w).toutLen = s.toutLen := rfl
@[simp] theorem atCommand_din0 (w : Word) : (s.atCommand w).din0 = s.din0 := rfl
@[simp] theorem atCommand_din1 (w : Word) : (s.atCommand w).din1 = s.din1 := rfl
@[simp] theorem atCommand_din2 (w : Word) : (s.atCommand w).din2 = s.din2 := rfl
@[simp] theorem atCommand_din3 (w : Word) : (s.atCommand w).din3 = s.din3 := rfl
@[simp] theorem atCommand_prec (w : Word) : (s.atCommand w).prec = s.prec := rfl
@[simp] theorem atCommand_err (w : Word) : (s.atCommand w).err = s.err := rfl
@[simp] theorem atCommand_errs (w : Word) : (s.atCommand w).errs = s.errs := rfl
@[simp] theorem atCommand_ovr (w : Word) : (s.atCommand w).ovr = s.ovr := rfl
@[simp] theorem atCommand_resultBool (w : Word) : (s.atCommand w).resultBool = s.resultBool := rfl
@[simp] theorem atCommand_resultClass (w : Word) : (s.atCommand w).resultClass = s.resultClass := rfl
@[simp] theorem atCommand_resetLine (w : Word) : (s.atCommand w).resetLine = false := rfl
@[simp] theorem atCommand_wait (w : Word) : (s.atCommand w).wait = 0 := rfl
@[simp] theorem atCommand_draws (w : Word) : (s.atCommand w).draws = s.draws := rfl
@[simp] theorem atCommand_pending (w : Word) : (s.atCommand w).pending = s.pending := rfl
@[simp] theorem atCommand_response (w : Word) : (s.atCommand w).response = s.response := rfl

@[simp] theorem resetTo_engine (line : Bool) : (s.resetTo line).engine = State.reset.engine := rfl
@[simp] theorem resetTo_regs (line : Bool) : (s.resetTo line).regs = State.reset.regs := rfl
@[simp] theorem resetTo_lr (line : Bool) : (s.resetTo line).lr = State.reset.lr := rfl
@[simp] theorem resetTo_tin (line : Bool) : (s.resetTo line).tin = State.reset.tin := rfl
@[simp] theorem resetTo_tinLen (line : Bool) : (s.resetTo line).tinLen = State.reset.tinLen := rfl
@[simp] theorem resetTo_tout (line : Bool) : (s.resetTo line).tout = State.reset.tout := rfl
@[simp] theorem resetTo_toutLen (line : Bool) : (s.resetTo line).toutLen = State.reset.toutLen := rfl
@[simp] theorem resetTo_din0 (line : Bool) : (s.resetTo line).din0 = State.reset.din0 := rfl
@[simp] theorem resetTo_din1 (line : Bool) : (s.resetTo line).din1 = State.reset.din1 := rfl
@[simp] theorem resetTo_din2 (line : Bool) : (s.resetTo line).din2 = State.reset.din2 := rfl
@[simp] theorem resetTo_din3 (line : Bool) : (s.resetTo line).din3 = State.reset.din3 := rfl
@[simp] theorem resetTo_prec (line : Bool) : (s.resetTo line).prec = State.reset.prec := rfl
@[simp] theorem resetTo_err (line : Bool) : (s.resetTo line).err = State.reset.err := rfl
@[simp] theorem resetTo_errs (line : Bool) : (s.resetTo line).errs = State.reset.errs := rfl
@[simp] theorem resetTo_ovr (line : Bool) : (s.resetTo line).ovr = State.reset.ovr := rfl
@[simp] theorem resetTo_resultBool (line : Bool) : (s.resetTo line).resultBool = State.reset.resultBool := rfl
@[simp] theorem resetTo_resultClass (line : Bool) : (s.resetTo line).resultClass = State.reset.resultClass := rfl
@[simp] theorem resetTo_resetLine (line : Bool) : (s.resetTo line).resetLine = line := rfl
@[simp] theorem resetTo_wait (line : Bool) : (s.resetTo line).wait = State.reset.wait := rfl
@[simp] theorem resetTo_draws (line : Bool) : (s.resetTo line).draws = s.draws := rfl
@[simp] theorem resetTo_pending (line : Bool) : (s.resetTo line).pending = s.pending := rfl
@[simp] theorem resetTo_response (line : Bool) : (s.resetTo line).response = State.reset.response := rfl

end Sys2Proof.Laws
end

