-- ==== Sys2Proof/Laws/Ops.lean ====
section
/-! SUPPORT. What the shared operations can do, said once: the register file, the text buffers, and how a command ends. -/

namespace Sys2Proof.Laws

open Sys2Proof.Machine

/-! The register file. -/

@[simp] theorem regFile_get_set_same (f : RegFile) (k : CReg) (v : Container) : (f.set k v).get k = v := by
  cases k <;> rfl

theorem regFile_get_set_other (f : RegFile) {k j : CReg} (v : Container) (h : j ≠ k) : (f.set k v).get j = f.get j := by
  cases k <;> cases j <;> first | rfl | exact absurd rfl h

@[simp] theorem getC_setC_same (s : State) (k : CReg) (v : Container) : (s.setC k v).getC k = v :=
  regFile_get_set_same s.regs k v

theorem getC_setC_other (s : State) {k j : CReg} (v : Container) (h : j ≠ k) : (s.setC k v).getC j = s.getC j :=
  regFile_get_set_other s.regs v h

/-- A register file is known by what its eight registers read as. -/
theorem regFile_ext {f g : RegFile} (h : ∀ k, f.get k = g.get k) : f = g := by
  cases f; cases g
  have h0 := h .c0; have h1 := h .c1; have h2 := h .c2; have h3 := h .c3
  have h4 := h .c4; have h5 := h .c5; have h6 := h .c6; have h7 := h .c7
  simp only [RegFile.get] at h0 h1 h2 h3 h4 h5 h6 h7
  subst h0 h1 h2 h3 h4 h5 h6 h7
  rfl

@[simp] theorem getC_completeOk (s : State) (k : CReg) : (completeOk s).getC k = s.getC k := rfl
@[simp] theorem getC_raiseError (e : ErrorCode) (s : State) (k : CReg) : (raiseError e s).getC k = s.getC k := rfl
@[simp] theorem getC_setBool (s : State) (b : Bool) (k : CReg) : (s.setBool b).getC k = s.getC k := rfl
@[simp] theorem getC_setClass (s : State) (c : ClassCode) (k : CReg) : (s.setClass c).getC k = s.getC k := rfl
@[simp] theorem getC_putTout (s : State) (t : List Byte) (k : CReg) : (s.putTout t).getC k = s.getC k := rfl

/-! How a command ends. -/

/-- A command always answers a next state: its writes with ERR = 0, or the starting state with an error raised (R352). -/
theorem settle_cases (s : State) (r : Except ErrorCode State) :
    (∃ u, r = .ok u ∧ settle s r = .next (completeOk u)) ∨
    (∃ e, r = .error e ∧ settle s r = .next (raiseError e s)) := by
  cases r with
  | ok u => exact .inl ⟨u, rfl, rfl⟩
  | error e => exact .inr ⟨e, rfl, rfl⟩

@[simp] theorem settle_ok (s u : State) : settle s (.ok u) = .next (completeOk u) := rfl
@[simp] theorem settle_error (s : State) (e : ErrorCode) : settle s (.error e) = .next (raiseError e s) := rfl

theorem sizedWrite_cases (s : State) (cd : CReg) (n : Nat) (v : Container) :
    (n ≤ 256 ∧ sizedWrite s cd n v = .ok (s.setC cd v)) ∨ (256 < n ∧ sizedWrite s cd n v = .error .capacity) := by
  unfold sizedWrite
  split
  · exact .inr ⟨‹_›, rfl⟩
  · exact .inl ⟨Nat.le_of_not_lt ‹_›, rfl⟩

theorem ranged_cases (lo hi : Nat) (t : State) :
    (hi ≤ 256 ∧ lo ≤ hi ∧ ranged lo hi t = .ok t) ∨ (256 < hi ∧ ranged lo hi t = .error .capacity) ∨
    (hi ≤ 256 ∧ hi < lo ∧ ranged lo hi t = .error .range) := by
  unfold ranged
  split
  · exact .inr (.inl ⟨‹_›, rfl⟩)
  · split
    · exact .inr (.inr ⟨Nat.le_of_not_lt ‹_›, ‹_›, rfl⟩)
    · exact .inl ⟨Nat.le_of_not_lt ‹_›, Nat.le_of_not_lt ‹_›, rfl⟩

theorem layoutOr_valid {s : State} (h : s.lr.valid = true) : s.layoutOr = .ok s.lr.layout := by
  simp [State.layoutOr, h]

theorem layoutOr_invalid {s : State} (h : s.lr.valid = false) : s.layoutOr = .error .layout := by
  simp [State.layoutOr, h]

theorem constructTo_cases (s : State) (cd : CReg) (v : SpecialValue) :
    (s.lr.valid = true ∧ constructTo s cd v = .ok (s.setC cd (construct s.lr.layout v))) ∨
    (s.lr.valid = false ∧ constructTo s cd v = .error .layout) := by
  unfold constructTo
  cases h : s.lr.valid with
  | true => exact .inl ⟨rfl, by rw [layoutOr_valid h]⟩
  | false => exact .inr ⟨rfl, by rw [layoutOr_invalid h]⟩

/-! Text buffers. -/

/-- An index below the first entry of a canonical buffer reads as an unlisted byte. -/
theorem read_below {hi l : Nat} (m : Memory) (h : Memory.wfFrom hi l m = true) {a : Nat} (ha : a < l) :
    m.read a = unlistedByte := by
  induction m generalizing l with
  | nil => rfl
  | cons c m ih =>
    simp only [Memory.wfFrom, Bool.and_eq_true, decide_eq_true_eq] at h
    have hne : a ≠ c.1 := by omega
    simp only [Memory.read, if_neg hne]
    exact ih h.2 (by omega)

theorem read_write_same {hi lo : Nat} (m : Memory) (a : Nat) (b : Byte) (h : Memory.wfFrom hi lo m = true) :
    (m.write a b).read a = b := by
  induction m generalizing lo with
  | nil => by_cases hb : b = unlistedByte <;> simp [Memory.write, Memory.read, hb]
  | cons c m ih =>
    obtain ⟨k, v⟩ := c
    simp only [Memory.wfFrom, Bool.and_eq_true, decide_eq_true_eq] at h
    obtain ⟨-, hm⟩ := h
    unfold Memory.write
    split
    · next hlt =>
      split
      · next hb => rw [Memory.read, if_neg (Nat.ne_of_lt hlt), hb]; exact read_below m hm (by omega)
      · simp [Memory.read]
    · split
      · next heq =>
        split
        · next hb => rw [hb]; exact read_below m hm (by omega)
        · simp [Memory.read]
      · next hne =>
        simp only [Memory.read, if_neg hne]
        exact ih hm

theorem read_write_other (m : Memory) {a j : Nat} (b : Byte) (h : j ≠ a) : (m.write a b).read j = m.read j := by
  induction m with
  | nil => by_cases hb : b = unlistedByte <;> simp [Memory.write, Memory.read, hb, h]
  | cons c m ih =>
    obtain ⟨k, v⟩ := c
    unfold Memory.write
    split
    · by_cases hb : b = unlistedByte <;> simp [hb, Memory.read, h]
    · split
      · next heq => subst heq; by_cases hb : b = unlistedByte <;> simp [hb, Memory.read, h]
      · simp only [Memory.read, ih]

theorem wfFrom_mono {hi lo lo' : Nat} (m : Memory) (h : Memory.wfFrom hi lo m = true) (hl : lo' ≤ lo) :
    Memory.wfFrom hi lo' m = true := by
  cases m with
  | nil => rfl
  | cons c m =>
    simp only [Memory.wfFrom, Bool.and_eq_true, decide_eq_true_eq] at h ⊢
    exact ⟨⟨⟨by omega, h.1.1.2⟩, h.1.2⟩, h.2⟩

/-- A write inside the buffer keeps the canonical form. -/
theorem write_keeps_wfFrom {hi lo : Nat} (m : Memory) (a : Nat) (b : Byte) (h : Memory.wfFrom hi lo m = true)
    (hlo : lo ≤ a) (hhi : a < hi) : Memory.wfFrom hi lo (m.write a b) = true := by
  induction m generalizing lo with
  | nil => by_cases hb : b = unlistedByte <;> simp [Memory.write, Memory.wfFrom, hb, hlo, hhi]
  | cons c m ih =>
    obtain ⟨k, v⟩ := c
    have h' := h
    simp only [Memory.wfFrom, Bool.and_eq_true, decide_eq_true_eq] at h
    obtain ⟨⟨⟨h1, h2⟩, h3⟩, h4⟩ := h
    unfold Memory.write
    split
    · next hlt =>
      by_cases hb : b = unlistedByte
      · simpa [hb] using h'
      · simp [hb, Memory.wfFrom, hlo, hhi, h2, h3, h4]; omega
    · split
      · next heq =>
        subst heq
        by_cases hb : b = unlistedByte
        · simpa [hb] using wfFrom_mono m h4 (by omega)
        · simp [hb, Memory.wfFrom, hlo, hhi, h4]
      · simp only [Memory.wfFrom, Bool.and_eq_true, decide_eq_true_eq]
        exact ⟨⟨⟨h1, h2⟩, h3⟩, ih h4 (by omega)⟩

theorem write_keeps_wf {m : Memory} {a : Nat} (b : Byte) (h : m.wf = true) (ha : a < 4096) : (m.write a b).wf = true :=
  write_keeps_wfFrom m a b h (Nat.zero_le a) ha

theorem writeBufferWord_keeps_wf {m : Memory} {i : Nat} (v : Word) (h : m.wf = true) (hi : i + 3 < 4096) :
    (writeBufferWord m i v).wf = true :=
  write_keeps_wf _ (write_keeps_wf _ (write_keeps_wf _ (write_keeps_wf _ h (by omega)) (by omega)) (by omega)) hi

theorem ofBytesFrom_wf (hi a : Nat) (t : List Byte) (h : a + t.length ≤ hi) :
    Memory.wfFrom hi a (Memory.ofBytesFrom a t) = true := by
  induction t generalizing a with
  | nil => rfl
  | cons b t ih =>
    simp only [List.length_cons] at h
    unfold Memory.ofBytesFrom
    split
    · exact wfFrom_mono _ (ih (a + 1) (by omega)) (by omega)
    · next hb =>
      simp only [Memory.wfFrom, Bool.and_eq_true, decide_eq_true_eq]
      exact ⟨⟨⟨Nat.le_refl a, by omega⟩, hb⟩, ih (a + 1) (by omega)⟩

/-- A text that fits the buffer is held in canonical form. -/
theorem ofBytes_wf {t : List Byte} (h : t.length ≤ 4096) : (Memory.ofBytes t).wf = true :=
  ofBytesFrom_wf _ 0 t (by simpa using h)

theorem read_ofBytesFrom (a : Nat) (t : List Byte) (i : Nat) :
    (Memory.ofBytesFrom a t).read i = if a ≤ i then t.getD (i - a) 0 else 0 := by
  induction t generalizing a with
  | nil => simp [Memory.ofBytesFrom, Memory.read, unlistedByte]
  | cons b t ih =>
    have step : a < i → (b :: t).getD (i - a) 0 = t.getD (i - (a + 1)) 0 := by
      intro h
      rw [show i - a = (i - (a + 1)) + 1 by omega, List.getD_cons_succ]
    rcases Nat.lt_trichotomy a i with hlt | rfl | hgt
    · have h1 : a ≠ i := Nat.ne_of_lt hlt
      rw [if_pos (Nat.le_of_lt hlt), step hlt]
      unfold Memory.ofBytesFrom
      split
      · rw [ih, if_pos (Nat.succ_le_of_lt hlt)]
      · rw [Memory.read, if_neg (Ne.symm h1), ih, if_pos (Nat.succ_le_of_lt hlt)]
    · unfold Memory.ofBytesFrom
      split
      · next hb => rw [ih, if_neg (by omega)]; simp [hb, unlistedByte]
      · simp [Memory.read]
    · have h1 : ¬a ≤ i := by omega
      have h2 : ¬a + 1 ≤ i := by omega
      rw [if_neg h1]
      unfold Memory.ofBytesFrom
      split
      · rw [ih, if_neg h2]
      · rw [Memory.read, if_neg (by omega), ih, if_neg h2]

/-- The byte at index i of a buffer that holds a text: the text's byte, or 0 past its end (R42). -/
theorem read_ofBytes (t : List Byte) (i : Nat) : (Memory.ofBytes t).read i = t.getD i 0 := by
  simp [Memory.ofBytes, read_ofBytesFrom]

theorem reset_memory_wf : State.reset.tin.wf = true ∧ State.reset.tout.wf = true := by decide

end Sys2Proof.Laws
end

