-- ==== Sys2Proof/Laws/PerInstr.lean ====
section
/-! SUPPORT. Statements made of every instruction, one lemma per constructor (LAWS.json "per_instruction"). -/

namespace Sys2Proof.Laws.EncodesToARow

open Sys2Proof Sys2Proof.Laws

/-- The encoded word of a well-formed instruction fits a row of the opcode map (R114). -/
def Statement (i : Instr) : Prop := i.wellFormed = true → ∃ r ∈ opRows, r.fits (Sys2Proof.encode i) = true

/-- Row number n of the opcode map. -/
theorem row_mem {n : Nat} (h : n < opRows.length) : opRows[n] ∈ opRows := List.getElem_mem h

theorem of_masked {n : Nat} (h : n < opRows.length) {w : Word} (hw : w &&& opRows[n].mask = opRows[n].pattern) :
    ∃ r ∈ opRows, r.fits w = true := ⟨opRows[n], row_mem h, by simpa [OpRow.fits] using hw⟩

theorem all0 (cd : CReg) (n : Nat) : Statement (.all0 cd n) := by
  intro h
  simp only [Instr.wellFormed, fitsImm9, decide_eq_true_eq] at h
  refine of_masked (n := 0) (by decide) ?_
  simp only [Sys2Proof.encode, BitVec.and_or_distrib_right,
    show placeCD cd &&& opRows[0].mask = 0#32 from placeField_free (toField_lt cd) (by decide),
    show placeField 14 n &&& opRows[0].mask = 0#32 from placeField_free (len := 9) (by omega) (by decide)]
  decide

theorem all1 (cd : CReg) (n : Nat) : Statement (.all1 cd n) := by
  intro h
  simp only [Instr.wellFormed, fitsImm9, decide_eq_true_eq] at h
  refine of_masked (n := 1) (by decide) ?_
  simp only [Sys2Proof.encode, BitVec.and_or_distrib_right,
    show placeCD cd &&& opRows[1].mask = 0#32 from placeField_free (toField_lt cd) (by decide),
    show placeField 14 n &&& opRows[1].mask = 0#32 from placeField_free (len := 9) (by omega) (by decide)]
  decide

theorem fromu8 (cd : CReg) (n : Nat) : Statement (.fromu8 cd n) := by
  intro h
  simp only [Instr.wellFormed, fitsImm9, decide_eq_true_eq] at h
  refine of_masked (n := 2) (by decide) ?_
  simp only [Sys2Proof.encode, BitVec.and_or_distrib_right,
    show placeCD cd &&& opRows[2].mask = 0#32 from placeField_free (toField_lt cd) (by decide),
    show placeField 14 n &&& opRows[2].mask = 0#32 from placeField_free (len := 9) (by omega) (by decide)]
  decide

theorem fromu16 (cd : CReg) (n : Nat) : Statement (.fromu16 cd n) := by
  intro h
  simp only [Instr.wellFormed, fitsImm9, decide_eq_true_eq] at h
  refine of_masked (n := 3) (by decide) ?_
  simp only [Sys2Proof.encode, BitVec.and_or_distrib_right,
    show placeCD cd &&& opRows[3].mask = 0#32 from placeField_free (toField_lt cd) (by decide),
    show placeField 14 n &&& opRows[3].mask = 0#32 from placeField_free (len := 9) (by omega) (by decide)]
  decide

theorem fromu32 (cd : CReg) (n : Nat) : Statement (.fromu32 cd n) := by
  intro h
  simp only [Instr.wellFormed, fitsImm9, decide_eq_true_eq] at h
  refine of_masked (n := 4) (by decide) ?_
  simp only [Sys2Proof.encode, BitVec.and_or_distrib_right,
    show placeCD cd &&& opRows[4].mask = 0#32 from placeField_free (toField_lt cd) (by decide),
    show placeField 14 n &&& opRows[4].mask = 0#32 from placeField_free (len := 9) (by omega) (by decide)]
  decide

theorem fromu64 (cd : CReg) (n : Nat) : Statement (.fromu64 cd n) := by
  intro h
  simp only [Instr.wellFormed, fitsImm9, decide_eq_true_eq] at h
  refine of_masked (n := 5) (by decide) ?_
  simp only [Sys2Proof.encode, BitVec.and_or_distrib_right,
    show placeCD cd &&& opRows[5].mask = 0#32 from placeField_free (toField_lt cd) (by decide),
    show placeField 14 n &&& opRows[5].mask = 0#32 from placeField_free (len := 9) (by omega) (by decide)]
  decide

theorem fromu128 (cd : CReg) (n : Nat) : Statement (.fromu128 cd n) := by
  intro h
  simp only [Instr.wellFormed, fitsImm9, decide_eq_true_eq] at h
  refine of_masked (n := 6) (by decide) ?_
  simp only [Sys2Proof.encode, BitVec.and_or_distrib_right,
    show placeCD cd &&& opRows[6].mask = 0#32 from placeField_free (toField_lt cd) (by decide),
    show placeField 14 n &&& opRows[6].mask = 0#32 from placeField_free (len := 9) (by omega) (by decide)]
  decide

theorem get (ca : CReg) (n : Nat) : Statement (.get ca n) := by
  intro h
  simp only [Instr.wellFormed, fitsImm9, decide_eq_true_eq] at h
  refine of_masked (n := 7) (by decide) ?_
  simp only [Sys2Proof.encode, BitVec.and_or_distrib_right,
    show placeCA ca &&& opRows[7].mask = 0#32 from placeField_free (toField_lt ca) (by decide),
    show placeField 14 n &&& opRows[7].mask = 0#32 from placeField_free (len := 9) (by omega) (by decide)]
  decide

theorem set (cd : CReg) (n : Nat) (p : Bool) : Statement (.set cd n p) := by
  intro h
  simp only [Instr.wellFormed, fitsImm9, decide_eq_true_eq] at h
  refine of_masked (n := 8) (by decide) ?_
  simp only [Sys2Proof.encode, BitVec.and_or_distrib_right,
    show placeCD cd &&& opRows[8].mask = 0#32 from placeField_free (toField_lt cd) (by decide),
    show placeField 14 n &&& opRows[8].mask = 0#32 from placeField_free (len := 9) (by omega) (by decide),
    show placeFlag 23 p &&& opRows[8].mask = 0#32 from placeField_free (flag_lt p) (by decide)]
  decide

theorem concat (cd : CReg) (ca : CReg) (cb : CReg) : Statement (.concat cd ca cb) := by
  intro _
  refine of_masked (n := 9) (by decide) ?_
  simp only [Sys2Proof.encode, BitVec.and_or_distrib_right,
    show placeCD cd &&& opRows[9].mask = 0#32 from placeField_free (toField_lt cd) (by decide),
    show placeCA ca &&& opRows[9].mask = 0#32 from placeField_free (toField_lt ca) (by decide),
    show placeCB cb &&& opRows[9].mask = 0#32 from placeField_free (toField_lt cb) (by decide)]
  decide

theorem resizeLo (cd : CReg) (ca : CReg) (n : Nat) : Statement (.resizeLo cd ca n) := by
  intro h
  simp only [Instr.wellFormed, fitsImm9, decide_eq_true_eq] at h
  refine of_masked (n := 10) (by decide) ?_
  simp only [Sys2Proof.encode, BitVec.and_or_distrib_right,
    show placeCD cd &&& opRows[10].mask = 0#32 from placeField_free (toField_lt cd) (by decide),
    show placeCA ca &&& opRows[10].mask = 0#32 from placeField_free (toField_lt ca) (by decide),
    show placeField 14 n &&& opRows[10].mask = 0#32 from placeField_free (len := 9) (by omega) (by decide)]
  decide

theorem resizeHi (cd : CReg) (ca : CReg) (n : Nat) : Statement (.resizeHi cd ca n) := by
  intro h
  simp only [Instr.wellFormed, fitsImm9, decide_eq_true_eq] at h
  refine of_masked (n := 11) (by decide) ?_
  simp only [Sys2Proof.encode, BitVec.and_or_distrib_right,
    show placeCD cd &&& opRows[11].mask = 0#32 from placeField_free (toField_lt cd) (by decide),
    show placeCA ca &&& opRows[11].mask = 0#32 from placeField_free (toField_lt ca) (by decide),
    show placeField 14 n &&& opRows[11].mask = 0#32 from placeField_free (len := 9) (by omega) (by decide)]
  decide

theorem getsub (cd : CReg) (ca : CReg) (lo : Nat) (hi : Nat) : Statement (.getsub cd ca lo hi) := by
  intro h
  simp only [Instr.wellFormed, fitsImm9, Bool.and_eq_true, decide_eq_true_eq] at h
  refine of_masked (n := 12) (by decide) ?_
  simp only [Sys2Proof.encode, BitVec.and_or_distrib_right,
    show placeCD cd &&& opRows[12].mask = 0#32 from placeField_free (toField_lt cd) (by decide),
    show placeCA ca &&& opRows[12].mask = 0#32 from placeField_free (toField_lt ca) (by decide),
    show placeField 14 lo &&& opRows[12].mask = 0#32 from placeField_free (len := 9) (by omega) (by decide),
    show placeField 23 hi &&& opRows[12].mask = 0#32 from placeField_free (len := 9) (by omega) (by decide)]
  decide

theorem range0 (ca : CReg) (lo : Nat) (hi : Nat) : Statement (.range0 ca lo hi) := by
  intro h
  simp only [Instr.wellFormed, fitsImm9, Bool.and_eq_true, decide_eq_true_eq] at h
  refine of_masked (n := 13) (by decide) ?_
  simp only [Sys2Proof.encode, BitVec.and_or_distrib_right,
    show placeCA ca &&& opRows[13].mask = 0#32 from placeField_free (toField_lt ca) (by decide),
    show placeField 14 lo &&& opRows[13].mask = 0#32 from placeField_free (len := 9) (by omega) (by decide),
    show placeField 23 hi &&& opRows[13].mask = 0#32 from placeField_free (len := 9) (by omega) (by decide)]
  decide

theorem range1 (ca : CReg) (lo : Nat) (hi : Nat) : Statement (.range1 ca lo hi) := by
  intro h
  simp only [Instr.wellFormed, fitsImm9, Bool.and_eq_true, decide_eq_true_eq] at h
  refine of_masked (n := 14) (by decide) ?_
  simp only [Sys2Proof.encode, BitVec.and_or_distrib_right,
    show placeCA ca &&& opRows[14].mask = 0#32 from placeField_free (toField_lt ca) (by decide),
    show placeField 14 lo &&& opRows[14].mask = 0#32 from placeField_free (len := 9) (by omega) (by decide),
    show placeField 23 hi &&& opRows[14].mask = 0#32 from placeField_free (len := 9) (by omega) (by decide)]
  decide

theorem parse (cd : CReg) : Statement (.parse cd) := by
  intro _
  refine of_masked (n := 15) (by decide) ?_
  simp only [Sys2Proof.encode, BitVec.and_or_distrib_right,
    show placeCD cd &&& opRows[15].mask = 0#32 from placeField_free (toField_lt cd) (by decide)]
  decide

theorem parseN (cd : CReg) (n : Nat) : Statement (.parseN cd n) := by
  intro h
  simp only [Instr.wellFormed, fitsImm9, decide_eq_true_eq] at h
  refine of_masked (n := 16) (by decide) ?_
  simp only [Sys2Proof.encode, BitVec.and_or_distrib_right,
    show placeCD cd &&& opRows[16].mask = 0#32 from placeField_free (toField_lt cd) (by decide),
    show placeField 14 n &&& opRows[16].mask = 0#32 from placeField_free (len := 9) (by omega) (by decide)]
  decide

theorem render (ca : CReg) : Statement (.render ca) := by
  intro _
  refine of_masked (n := 17) (by decide) ?_
  simp only [Sys2Proof.encode, BitVec.and_or_distrib_right,
    show placeCA ca &&& opRows[17].mask = 0#32 from placeField_free (toField_lt ca) (by decide)]
  decide

theorem lsel (idx : Nat) : Statement (.lsel idx) := by
  intro h
  simp only [Instr.wellFormed, fitsIdx, decide_eq_true_eq] at h
  refine of_masked (n := 18) (by decide) ?_
  simp only [Sys2Proof.encode, BitVec.and_or_distrib_right,
    show placeField 8 idx &&& opRows[18].mask = 0#32 from placeField_free (len := 4) (by omega) (by decide)]
  decide

theorem lset (sw : Bool) (ew : Nat) (mw : Nat) : Statement (.lset sw ew mw) := by
  intro h
  simp only [Instr.wellFormed, fitsImm9, Bool.and_eq_true, decide_eq_true_eq] at h
  refine of_masked (n := 19) (by decide) ?_
  simp only [Sys2Proof.encode, BitVec.and_or_distrib_right,
    show placeFlag 8 sw &&& opRows[19].mask = 0#32 from placeField_free (flag_lt sw) (by decide),
    show placeField 9 ew &&& opRows[19].mask = 0#32 from placeField_free (len := 9) (by omega) (by decide),
    show placeField 18 mw &&& opRows[19].mask = 0#32 from placeField_free (len := 9) (by omega) (by decide)]
  decide

theorem constructZero (cd : CReg) (sgn : Bool) : Statement (.constructZero cd sgn) := by
  intro _
  refine of_masked (n := 20) (by decide) ?_
  simp only [Sys2Proof.encode, constructWord, BitVec.and_or_distrib_right,
    show placeCD cd &&& opRows[20].mask = 0#32 from placeField_free (toField_lt cd) (by decide),
    show placeFlag 18 sgn &&& opRows[20].mask = 0#32 from placeField_free (flag_lt sgn) (by decide)]
  decide

theorem constructInf (cd : CReg) (sgn : Bool) : Statement (.constructInf cd sgn) := by
  intro _
  refine of_masked (n := 21) (by decide) ?_
  simp only [Sys2Proof.encode, constructWord, BitVec.and_or_distrib_right,
    show placeCD cd &&& opRows[21].mask = 0#32 from placeField_free (toField_lt cd) (by decide),
    show placeFlag 18 sgn &&& opRows[21].mask = 0#32 from placeField_free (flag_lt sgn) (by decide)]
  decide

theorem constructNan (cd : CReg) (sig : Bool) (ca : CReg) : Statement (.constructNan cd sig ca) := by
  intro _
  refine of_masked (n := 22) (by decide) ?_
  simp only [Sys2Proof.encode, constructWord, BitVec.and_or_distrib_right,
    show placeCD cd &&& opRows[22].mask = 0#32 from placeField_free (toField_lt cd) (by decide),
    show placeCA ca &&& opRows[22].mask = 0#32 from placeField_free (toField_lt ca) (by decide),
    show placeFlag 19 sig &&& opRows[22].mask = 0#32 from placeField_free (flag_lt sig) (by decide)]
  decide

theorem constructSpsub (cd : CReg) : Statement (.constructSpsub cd) := by
  intro _
  refine of_masked (n := 23) (by decide) ?_
  simp only [Sys2Proof.encode, constructWord, BitVec.and_or_distrib_right,
    show placeCD cd &&& opRows[23].mask = 0#32 from placeField_free (toField_lt cd) (by decide)]
  decide

theorem constructLsub (cd : CReg) : Statement (.constructLsub cd) := by
  intro _
  refine of_masked (n := 24) (by decide) ?_
  simp only [Sys2Proof.encode, constructWord, BitVec.and_or_distrib_right,
    show placeCD cd &&& opRows[24].mask = 0#32 from placeField_free (toField_lt cd) (by decide)]
  decide

theorem constructSpnorm (cd : CReg) : Statement (.constructSpnorm cd) := by
  intro _
  refine of_masked (n := 25) (by decide) ?_
  simp only [Sys2Proof.encode, constructWord, BitVec.and_or_distrib_right,
    show placeCD cd &&& opRows[25].mask = 0#32 from placeField_free (toField_lt cd) (by decide)]
  decide

theorem constructLnorm (cd : CReg) : Statement (.constructLnorm cd) := by
  intro _
  refine of_masked (n := 26) (by decide) ?_
  simp only [Sys2Proof.encode, constructWord, BitVec.and_or_distrib_right,
    show placeCD cd &&& opRows[26].mask = 0#32 from placeField_free (toField_lt cd) (by decide)]
  decide

theorem constructLlt1 (cd : CReg) : Statement (.constructLlt1 cd) := by
  intro _
  refine of_masked (n := 27) (by decide) ?_
  simp only [Sys2Proof.encode, constructWord, BitVec.and_or_distrib_right,
    show placeCD cd &&& opRows[27].mask = 0#32 from placeField_free (toField_lt cd) (by decide)]
  decide

theorem constructOne (cd : CReg) : Statement (.constructOne cd) := by
  intro _
  refine of_masked (n := 28) (by decide) ?_
  simp only [Sys2Proof.encode, constructWord, BitVec.and_or_distrib_right,
    show placeCD cd &&& opRows[28].mask = 0#32 from placeField_free (toField_lt cd) (by decide)]
  decide

theorem constructSgt1 (cd : CReg) : Statement (.constructSgt1 cd) := by
  intro _
  refine of_masked (n := 29) (by decide) ?_
  simp only [Sys2Proof.encode, constructWord, BitVec.and_or_distrib_right,
    show placeCD cd &&& opRows[29].mask = 0#32 from placeField_free (toField_lt cd) (by decide)]
  decide

theorem classify (cd : CReg) (ca : CReg) : Statement (.classify cd ca) := by
  intro _
  refine of_masked (n := 30) (by decide) ?_
  simp only [Sys2Proof.encode, BitVec.and_or_distrib_right,
    show placeCD cd &&& opRows[30].mask = 0#32 from placeField_free (toField_lt cd) (by decide),
    show placeCA ca &&& opRows[30].mask = 0#32 from placeField_free (toField_lt ca) (by decide)]
  decide

theorem encode (cd : CReg) : Statement (.encode cd) := by
  intro _
  refine of_masked (n := 31) (by decide) ?_
  simp only [Sys2Proof.encode, BitVec.and_or_distrib_right,
    show placeCD cd &&& opRows[31].mask = 0#32 from placeField_free (toField_lt cd) (by decide)]
  decide

theorem decode : Statement (.decode) := by
  intro _
  refine of_masked (n := 32) (by decide) ?_
  decide

end Sys2Proof.Laws.EncodesToARow
end

