-- ==== Sys2Proof/Tests/Slice0.lean ====
section
/-! SUPPORT. Tests: ill-formed terms, words of the opcode map, one or two small cases per command, and a witness for the
hypotheses of every statement. Expected values are those of 95_test_vectors.md unless a comment says otherwise. -/

namespace Sys2Proof.Tests

open Sys2Proof Sys2Proof.Machine Sys2Proof.Claims

/-! ### WellFormed refuses an ill-formed term for each check -/

/-- N above its nine bits. -/
theorem test_wellFormed_sizes :
    [Instr.all0 .c0 512, .all1 .c0 512, .fromu8 .c0 512, .fromu16 .c0 512, .fromu32 .c0 512, .fromu64 .c0 512, .fromu128 .c0 512,
      .get .c0 512, .set .c0 512 true, .resizeLo .c0 .c1 512, .resizeHi .c0 .c1 512, .parseN .c0 512].all
      (fun i => !i.wellFormed) = true := by decide

/-- LO or HI above its nine bits. -/
theorem test_wellFormed_ranges :
    [Instr.getsub .c0 .c1 512 0, .getsub .c0 .c1 0 512, .range0 .c0 512 0, .range0 .c0 0 512, .range1 .c0 512 0,
      .range1 .c0 0 512].all (fun i => !i.wellFormed) = true := by decide

/-- IDX above its four bits, EW and MW above their nine. -/
theorem test_wellFormed_layouts :
    [Instr.lsel 16, .lset false 512 2, .lset false 2 512].all (fun i => !i.wellFormed) = true := by decide

/-- The largest values that fit are well formed. -/
theorem test_wellFormed_accepts :
    [Instr.all0 .c0 511, .getsub .c7 .c7 511 511, .lsel 15, .lset true 511 511].all (fun i => i.wellFormed) = true := by decide

/-! ### Decoding: the words of section 2.1 -/

theorem test_decode_container_words :
    decode 0x00030001#32 = .ok (.all0 .c0 12) ∧ decode 0x00400702#32 = .ok (.all1 .c7 256) ∧
    decode 0x00030003#32 = .ok (.fromu8 .c0 12) ∧ decode 0x04200303#32 = .ok (.fromu128 .c3 128) ∧
    decode 0x00015004#32 = .ok (.get .c2 5) ∧ decode 0x00800105#32 = .ok (.set .c1 0 true) ∧
    decode 0x00004206#32 = .ok (.concat .c2 .c0 .c1) ∧ decode 0x00014A07#32 = .ok (.resizeLo .c2 .c1 5) ∧
    decode 0x00814B07#32 = .ok (.resizeHi .c3 .c1 5) ∧ decode 0x03808D08#32 = .ok (.getsub .c5 .c1 2 7) := by decide

/-- FROMU.16, .32 and .64, with T = 1, 2 and 3 in bits 26:24 (R106, R112). -/
theorem test_decode_fromu_types :
    decode 0b0000_0001_0000_0100_0000_0001_0000_0011#32 = .ok (.fromu16 .c1 16) ∧
    decode 0b0000_0010_0000_1000_0000_0010_0000_0011#32 = .ok (.fromu32 .c2 32) ∧
    decode 0b0000_0011_0001_0000_0000_0011_0000_0011#32 = .ok (.fromu64 .c3 64) := by decide

theorem test_decode_range_and_text_words :
    decode 0x01000809#32 = .ok (.range0 .c1 0 2) ∧ decode 0x0180680A#32 = .ok (.range1 .c5 1 3) ∧
    decode 0x0000010B#32 = .ok (.parse .c1) ∧ decode 0x0083010B#32 = .ok (.parseN .c1 12) ∧
    decode 0x0000100C#32 = .ok (.render .c2) ∧ decode 0x00000110#32 = .ok (.lsel 1) ∧
    decode 0x00100611#32 = .ok (.lset false 3 4) := by decide

theorem test_decode_special_words :
    decode 0x00040020#32 = .ok (.constructZero .c0 true) ∧ decode 0x00004020#32 = .ok (.constructInf .c0 false) ∧
    decode 0x00088820#32 = .ok (.constructNan .c0 true .c1) ∧ decode 0x0000C020#32 = .ok (.constructSpsub .c0) ∧
    decode 0x00010020#32 = .ok (.constructLsub .c0) ∧ decode 0x00014020#32 = .ok (.constructSpnorm .c0) ∧
    decode 0x00018020#32 = .ok (.constructLnorm .c0) ∧ decode 0x0001C020#32 = .ok (.constructLlt1 .c0) ∧
    decode 0x00020020#32 = .ok (.constructOne .c0) ∧ decode 0x00024020#32 = .ok (.constructSgt1 .c0) ∧
    decode 0x00000121#32 = .ok (.classify .c1 .c0) ∧ decode 0x00000030#32 = .ok (.encode .c0) ∧
    decode 0x00000031#32 = .ok .decode := by decide

theorem test_decode_unassigned_words :
    [0x00000000#32, 0x0000000D#32, 0x000000FF#32].all (fun w => decode w = .error .unassignedOpcode) = true := by decide

theorem test_decode_reserved_words :
    [0x00030801#32, 0x01030001#32, 0x05000003#32, 0x07000003#32, 0x00028020#32, 0x0003C020#32, 0x00060020#32, 0x00080020#32,
      0x00004820#32, 0x0001410B#32, 0x00000131#32, 0x0000110C#32, 0x00001110#32, 0x08100611#32].all
      (fun w => decode w = .error .reservedEncoding) = true := by decide

/-- The words the opcode table's numbering gives the host's entry point; a bit above the given width is dropped. -/
theorem test_decodeTableWord :
    decodeTableWord 32 0x00088820 = some (.constructNan .c0 true .c1) ∧ decodeTableWord 32 0 = none ∧
    decodeTableWord 32 0x100000031 = some .decode := by decide

/-- The step after `withFetchWord` performs the word: ALL1 c2, 8. -/
theorem test_withFetchWord :
    (match step (State.reset.withFetchWord 32 0x00020202) with
      | .next t => t.getC .c2 | .fault _ => .empty | .refused _ => .empty) = ⟨8, 0xFF⟩ := by decide

/-! ### Commands -/

/-- The state after a command. -/
def after (i : Instr) (s : State) : State :=
  match exec i s with
  | .next t => t
  | .fault _ => s
  | .refused _ => s

/-- x = ⟨12, 0x3D9⟩ in c0 and y = ⟨4, 0xA⟩ in c1, with DIN = 0x1A5. -/
def sx : State := { (State.reset.setC .c0 ⟨12, 0x3D9⟩).setC .c1 ⟨4, 0xA⟩ with din0 := 0x1A5 }

/-- A state with a text in TIN. -/
def withText (s : State) (t : List Byte) : State :=
  { s with tin := Memory.ofBytes t, tinLen := BitVec.ofNat 13 t.length }

/-- float32 selected, with a text in TIN. -/
def f32 (t : List Byte) : State := withText (after (.lsel 1) sx) t

/-- A layout loaded, with a text in TIN. -/
def lay (l : Layout) (t : List Byte) : State := withText { sx with lr := .load l 0xF } t

theorem test_all0 : (after (.all0 .c3 12) sx).getC .c3 = ⟨12, 0⟩ ∧ (after (.all0 .c3 257) sx).err = .capacity := by decide

theorem test_all1 : (after (.all1 .c3 256) sx).getC .c3 = ⟨256, 2 ^ 256 - 1⟩ ∧ (after (.all1 .c3 300) sx).err = .capacity := by
  decide

theorem test_fromu8 : (after (.fromu8 .c3 12) sx).getC .c3 = ⟨12, 0x0A5⟩ ∧ (after (.fromu8 .c3 257) sx).err = .capacity := by
  decide

theorem test_fromu16 : (after (.fromu16 .c3 12) sx).getC .c3 = ⟨12, 0x1A5⟩ ∧ (after (.fromu16 .c3 4) sx).getC .c3 = ⟨4, 0x5⟩ := by
  decide

theorem test_fromu32 :
    (after (.fromu32 .c3 40) { sx with din0 := 0xFFFFFFFF, din1 := 0xFF }).getC .c3 = ⟨40, 0x00FFFFFFFF⟩ := by decide

theorem test_fromu64 :
    (after (.fromu64 .c3 64) { sx with din0 := 0x89ABCDEF, din1 := 0x01234567, din2 := 1 }).getC .c3 =
      ⟨64, 0x0123456789ABCDEF⟩ := by decide

/-- Hand calculation from R43 and R145: DIN3 holds the highest bits. -/
theorem test_fromu128 :
    (after (.fromu128 .c3 128) { sx with din0 := 4, din1 := 3, din2 := 2, din3 := 1 }).getC .c3 =
      ⟨128, 0x00000001000000020000000300000004⟩ ∧ (after (.fromu128 .c3 0) sx).getC .c3 = ⟨0, 0⟩ := by decide

theorem test_get : (after (.get .c0 3) sx).resultBool = true ∧ (after (.get .c0 12) sx).resultBool = false := by decide

theorem test_set : (after (.set .c0 11 true) sx).getC .c0 = ⟨12, 0xBD9⟩ ∧ (after (.set .c0 0 false) sx).getC .c0 = ⟨12, 0x3D8⟩ := by
  decide

theorem test_set_range : (after (.set .c0 12 true) sx).err = .range ∧ (after (.set .c0 12 true) sx).getC .c0 = ⟨12, 0x3D9⟩ := by
  decide

theorem test_concat :
    (after (.concat .c3 .c0 .c1) sx).getC .c3 = ⟨16, 0x3D9A⟩ ∧ (after (.concat .c1 .c1 .c1) sx).getC .c1 = ⟨8, 0xAA⟩ := by decide

theorem test_concat_capacity :
    (after (.concat .c0 .c2 .c3) ((sx.setC .c2 ⟨200, 0⟩).setC .c3 ⟨57, 0⟩)).err = .capacity := by decide

theorem test_resizeLo :
    (after (.resizeLo .c3 .c0 5) sx).getC .c3 = ⟨5, 0x07⟩ ∧ (after (.resizeLo .c3 .c0 21) sx).getC .c3 = ⟨21, 0x07B200⟩ := by decide

theorem test_resizeHi :
    (after (.resizeHi .c3 .c0 5) sx).getC .c3 = ⟨5, 0x19⟩ ∧ (after (.resizeHi .c3 .c0 21) sx).getC .c3 = ⟨21, 0x0003D9⟩ := by decide

theorem test_getsub :
    (after (.getsub .c3 .c0 2 7) sx).getC .c3 = ⟨5, 0x16⟩ ∧ (after (.getsub .c3 .c0 8 16) sx).getC .c3 = ⟨8, 0x03⟩ := by decide

theorem test_getsub_errors :
    (after (.getsub .c3 .c0 7 2) sx).err = .range ∧ (after (.getsub .c3 .c0 300 257) sx).err = .capacity := by decide

theorem test_range0 :
    (after (.range0 .c0 1 3) sx).resultBool = true ∧ (after (.range0 .c0 0 1) sx).resultBool = false := by decide

theorem test_range1 :
    (after (.range1 .c0 3 5) sx).resultBool = true ∧ (after (.range1 .c0 11 13) sx).resultBool = false := by decide

theorem test_parse :
    (after (.parse .c3) (withText sx [0x30, 0x31, 0x30, 0x31])).getC .c3 = ⟨4, 5⟩ ∧
    (after (.parse .c3) (withText sx [0x20, 0x30, 0x31])).err = .bits := by decide

theorem test_parseN :
    (after (.parseN .c3 4) (withText sx [0x30, 0x31, 0x30, 0x31])).getC .c3 = ⟨4, 5⟩ ∧
    (after (.parseN .c3 5) (withText sx [0x30, 0x31, 0x30, 0x31])).err = .length := by decide

theorem test_parseN_order :
    (after (.parseN .c3 300) (withText sx [0x30, 0x31])).err = .capacity ∧
    (after (.parseN .c3 3) (withText sx [0x30, 0x31, 0x78, 0x31])).err = .length := by decide

/-- RENDER of ⟨4, 0xA⟩ is "1010" (R14). -/
theorem test_render :
    (after (.render .c1) sx).tout = [(0, 0x31), (1, 0x30), (2, 0x31), (3, 0x30)] ∧ (after (.render .c1) sx).toutLen = 4 := by decide

theorem test_lsel :
    lcfgWord (after (.lsel 4) sx).lr = 0x004DD813#32 ∧ lcmanWord (after (.lsel 8) sx).lr = 0x00130009#32 := by decide

theorem test_lset :
    lcfgWord (after (.lset false 32 10) { sx with din0 := 0xFFFFFFFE }).lr = 0x00F81420#32 ∧
    (after (.lset true 19 237) { sx with din0 := 0x3FFFF }).err = .layout := by decide

theorem test_constructZero :
    (after (.constructZero .c3 true) (f32 [])).getC .c3 = ⟨32, 0x80000000⟩ ∧
    (after (.constructZero .c3 true) (lay ⟨0, 3, 4, 3⟩ [])).getC .c3 = ⟨7, 0⟩ := by decide

theorem test_constructInf :
    (after (.constructInf .c3 true) (f32 [])).getC .c3 = ⟨32, 0xFF800000⟩ ∧ (after (.constructInf .c3 true) sx).err = .layout := by
  decide

theorem test_constructNan :
    (after (.constructNan .c3 true .c2) ((f32 []).setC .c2 ⟨21, 0x0002A5⟩)).getC .c3 = ⟨32, 0x7F80054B⟩ ∧
    (after (.constructNan .c3 false .c2) ((f32 []).setC .c2 ⟨30, 0x3FFFFFFF⟩)).getC .c3 = ⟨32, 0x7FFFFFFF⟩ := by decide

theorem test_constructSpsub : (after (.constructSpsub .c3) (f32 [])).getC .c3 = ⟨32, 0x00000001⟩ := by decide

theorem test_constructLsub : (after (.constructLsub .c3) (f32 [])).getC .c3 = ⟨32, 0x007FFFFF⟩ := by decide

theorem test_constructSpnorm : (after (.constructSpnorm .c3) (f32 [])).getC .c3 = ⟨32, 0x00800000⟩ := by decide

theorem test_constructLnorm : (after (.constructLnorm .c3) (f32 [])).getC .c3 = ⟨32, 0x7F7FFFFF⟩ := by decide

theorem test_constructLlt1 : (after (.constructLlt1 .c3) (f32 [])).getC .c3 = ⟨32, 0x3F7FFFFF⟩ := by decide

theorem test_constructOne : (after (.constructOne .c3) (f32 [])).getC .c3 = ⟨32, 0x3F800000⟩ := by decide

theorem test_constructSgt1 : (after (.constructSgt1 .c3) (f32 [])).getC .c3 = ⟨32, 0x3F800001⟩ := by decide

theorem test_classify_nan :
    (after (.classify .c1 .c2) ((f32 []).setC .c2 ⟨32, 0xFF800001⟩)).resultClass = .nanSignaling ∧
    (after (.classify .c1 .c2) ((f32 []).setC .c2 ⟨32, 0xFF800001⟩)).getC .c1 = ⟨21, 0⟩ := by decide

theorem test_classify_landmarks :
    (after (.classify .c1 .c2) ((f32 []).setC .c2 ⟨32, 0x3F7FFFFF⟩)).resultClass = .llt1 ∧
    (after (.classify .c1 .c2) ((f32 []).setC .c2 ⟨32, 0xBF800000⟩)).resultClass = .none := by decide

/-- "3.14" and "0.1" (E6, E7). -/
theorem test_encode :
    (after (.encode .c3) (f32 [0x33, 0x2E, 0x31, 0x34])).getC .c3 = ⟨32, 0x4048F5C3⟩ ∧
    (after (.encode .c3) (f32 [0x30, 0x2E, 0x31])).getC .c3 = ⟨32, 0x3DCCCCCD⟩ := by decide

/-- "-INF" is −Infinity (R273), and "1e5" is TEXT (R274). -/
theorem test_encode_texts :
    (after (.encode .c3) (f32 [0x2D, 0x49, 0x4E, 0x46])).getC .c3 = ⟨32, 0xFF800000⟩ ∧
    (after (.encode .c3) (f32 [0x31, 0x65, 0x35])).err = .text := by decide

/-- fp8-e4m3, PREC = 4: 0x39 is 1.125 (hand calculation from R314 to R318). -/
theorem test_decode_number :
    (after .decode { lay ⟨1, 4, 3, 7⟩ [0x30, 0x30, 0x31, 0x31, 0x31, 0x30, 0x30, 0x31] with prec := 4 }).tout.text 6 =
      [0x31, 0x2E, 0x31, 0x32, 0x35, 0x00] := by decide +kernel

/-- fp8-e4m3: 0x80 is "-0.0" (R313). -/
theorem test_decode_token :
    (after .decode (lay ⟨1, 4, 3, 7⟩ [0x31, 0x30, 0x30, 0x30, 0x30, 0x30, 0x30, 0x30])).tout.text 4 =
      [0x2D, 0x30, 0x2E, 0x30] := by decide

/-- A failure changes ERR and ERRS and nothing else, and a later success leaves ERRS set (R352, R353). -/
theorem test_errors_are_sticky :
    after (.set .c0 12 true) sx = { sx with err := .range, errs := true } ∧
    (after (.all0 .c3 0) (after (.set .c0 12 true) sx)).err = .ok ∧
    (after (.all0 .c3 0) (after (.set .c0 12 true) sx)).errs = true := by decide

/-! ### The window -/

/-- "3.14" written as one word is 0x34312E33 (R78). -/
theorem test_text_window :
    (hostWrite State.reset 0x1000 4 0x34312E33#32).tin = [(0, 0x33), (1, 0x2E), (2, 0x31), (3, 0x34)] := by decide

/-- TIN_LEN stores min(v[12:0], 4096) (R41). -/
theorem test_tin_len : (hostWrite State.reset 0x0050 4 0x1FFF#32).tinLen = 4096 := by decide

/-- A dropped write sets OVR; a write of 4 to STATUS clears it (R46, R385). -/
theorem test_overrun :
    (hostWrite (State.reset.atCommand 0) 0x0040 4 7#32).ovr = true ∧
    (hostWrite (State.reset.atCommand 0) 0x0040 4 7#32).din0 = 0 ∧
    (hostWrite (hostWrite (State.reset.atCommand 0) 0x0040 4 7#32) 0x000C 4 4#32).ovr = false := by decide

/-- CSIZE[1] at 0x140, CWORD[0][0] at 0x104, CAPS at 4 (R72, R50, R48). -/
theorem test_window_map :
    (hostRead sx 0x0140 4).response = some (.data 4) ∧ (hostRead sx 0x0104 4).response = some (.data 0x3D9) ∧
    (hostRead sx 0x0004 4).response = some (.data 0x09080100) := by decide

/-- MOV c2, c0 (R121). -/
theorem test_pseudo_mov :
    ((pseudoMov .c2 .c0).foldl (fun s i => after i s) sx).getC .c2 = ⟨12, 0x3D9⟩ := by decide

/-! ### Witnesses: for every statement with hypotheses, a state and operands that meet them -/

/-- A test that a state satisfies the invariant. -/
def invCheck (s : State) : Bool :=
  decide s.regs.c0.wf && decide s.regs.c1.wf && decide s.regs.c2.wf && decide s.regs.c3.wf && decide s.regs.c4.wf &&
  decide s.regs.c5.wf && decide s.regs.c6.wf && decide s.regs.c7.wf &&
  decide ((s.lr.valid = true ∧ s.lr.layout.valid ∧ (s.lr.src = 0xF ∨ layoutRom[s.lr.src.toNat]? = some s.lr.layout)) ∨
    s.lr = .reset) &&
  s.tin.wf && decide (s.tinLen.toNat ≤ 4096) && s.tout.wf && decide (s.toutLen.toNat ≤ 4096) &&
  s.tout.all (fun c => decide (c.1 < s.toutLen.toNat)) && !s.resetLine

theorem read_unlisted (m : Memory) (n a : Nat) (h : m.all (fun c => decide (c.1 < n)) = true) (ha : n ≤ a) : m.read a = 0 := by
  induction m with
  | nil => rfl
  | cons c m ih =>
    simp only [List.all_cons, Bool.and_eq_true, decide_eq_true_eq] at h
    have : a ≠ c.1 := by omega
    simp [Memory.read, this, ih h.2]

theorem inv_of_check {s : State} (h : invCheck s = true) : s.Inv := by
  simp only [invCheck, Bool.and_eq_true, decide_eq_true_eq, Bool.not_eq_true'] at h
  obtain ⟨⟨⟨⟨⟨⟨⟨⟨⟨⟨⟨⟨⟨⟨h0, h1⟩, h2⟩, h3⟩, h4⟩, h5⟩, h6⟩, h7⟩, hl⟩, ht⟩, htl⟩, ho⟩, hol⟩, hot⟩, hr⟩ := h
  refine ⟨fun k => ?_, hl, ht, htl, ho, hol, fun a ha => read_unlisted s.tout _ a hot ha, fun h => ?_⟩
  · cases k <;> assumption
  · rw [hr] at h; cases h

/-- DecodeEncodeRoundTrip: every field at its largest value. -/
theorem witness_wellFormed : Instr.wellFormed (.getsub .c7 .c7 511 511) = true ∧ Instr.wellFormed (.lset true 511 511) = true ∧
    Instr.wellFormed (.lsel 15) = true := by decide

/-- EncodeOfDecodedWord. -/
theorem witness_decoded_word : decode 0xFFFFFF08#32 = .ok (.getsub .c7 .c7 511 511) := by decide

/-- DecodingIsTotalAndUnambiguous: a word matches a row. -/
theorem witness_matching_word : 0x00000031#32 &&& (opRows[32]).mask = (opRows[32]).pattern := by decide

/-- UnassignedAndReservedWordsAreIllegal: each range of opcodes at its ends. -/
theorem witness_unassigned_opcodes :
    [0x00#32, 0x0D#32, 0x0F#32, 0x12#32, 0x1F#32, 0x22#32, 0x2F#32, 0x32#32, 0xFF#32].all
      (fun w => decode w = .error .unassignedOpcode) = true := by decide

/-- UnassignedAndReservedWordsAreIllegal: the other clauses, at the first value of each. -/
theorem witness_reserved_words :
    (wordField 0x05000003#32 0 8 = 0x03 ∧ 5 ≤ wordField 0x05000003#32 24 3) ∧
    (wordField 0x00028020#32 0 8 = 0x20 ∧ 10 ≤ wordField 0x00028020#32 14 4) ∧
    (wordField 0x00048020#32 0 8 = 0x20 ∧ 2 ≤ wordField 0x00048020#32 14 4 ∧ (0x00048020#32).getLsbD 18 = true) ∧
    (wordField 0x00080020#32 0 8 = 0x20 ∧ wordField 0x00080020#32 14 4 ≠ 2 ∧ (0x00080020#32).getLsbD 19 = true) ∧
    (wordField 0x00000820#32 0 8 = 0x20 ∧ wordField 0x00000820#32 14 4 ≠ 2 ∧ wordField 0x00000820#32 11 3 ≠ 0) ∧
    (wordField 0x0000410B#32 0 8 = 0x0B ∧ (0x0000410B#32).getLsbD 23 = false ∧ wordField 0x0000410B#32 14 9 ≠ 0) ∧
    (∀ r ∈ opRows, 0#32 &&& r.mask ≠ r.pattern) := by decide

/-- An engine that holds a word, 3 accesses before its instant, with an access to come. -/
def sBusy (w : Word) (e : HostEvent) : State := { sx with engine := .busy w, wait := 3, pending := [e] }

/-- IllegalWordOnlySetsStatus: an instant that has come, and a host with nothing more to do. -/
theorem witness_illegal_word :
    ((sx.atCommand 0).engine = .busy 0 ∧ (sx.atCommand 0).resetLine = false ∧ (sx.atCommand 0).wait = 0 ∧
      decode 0 = .error .unassignedOpcode) ∧
    ({ sx with engine := .busy 0, wait := 3 }.pending = []) := by decide

/-- StepPerformsDecodedCommand. -/
theorem witness_decoded_command :
    (sx.atCommand 0x31).engine = .busy 0x31 ∧ (sx.atCommand 0x31).resetLine = false ∧ (sx.atCommand 0x31).wait = 0 ∧
      decode 0x31#32 = .ok .decode := by decide

/-- FillCommandsSetEveryBit and FromUnsignedPlacesDin: both clauses at the bound. -/
theorem witness_sizes :
    (Instr.all0 .c3 256, false) ∈ [(Instr.all0 .c3 256, false), (Instr.all1 .c3 256, true)] ∧
    (Instr.fromu128 .c3 257, 128) ∈ [(Instr.fromu8 .c3 257, 8), (Instr.fromu16 .c3 257, 16), (Instr.fromu32 .c3 257, 32),
      (Instr.fromu64 .c3 257, 64), (Instr.fromu128 .c3 257, 128)] ∧ 256 ≤ 256 ∧ 256 < 257 := by decide

/-- SetWritesOneBit: the last position, and the first one past the size. -/
theorem witness_set : sx.Inv ∧ 11 < (sx.getC .c0).size ∧ (sx.getC .c0).size ≤ 12 := ⟨inv_of_check (by decide), by decide⟩

/-- ConcatPlacesHighAndLow: sizes that add up to 256 and to 257. -/
theorem witness_concat :
    ((sx.setC .c2 ⟨244, 1⟩).setC .c3 ⟨245, 0⟩).Inv ∧
    (((sx.setC .c2 ⟨244, 1⟩).setC .c3 ⟨245, 0⟩).getC .c0).size + (((sx.setC .c2 ⟨244, 1⟩).setC .c3 ⟨245, 0⟩).getC .c2).size ≤ 256 ∧
    256 < (((sx.setC .c2 ⟨244, 1⟩).setC .c3 ⟨245, 0⟩).getC .c0).size + (((sx.setC .c2 ⟨244, 1⟩).setC .c3 ⟨245, 0⟩).getC .c3).size :=
  ⟨inv_of_check (by decide), by decide⟩

/-- ResizeLowKeepsHighEnd, ResizeHighKeepsLowEnd and RenderWritesMsbFirst: a state with the invariant; sizes 256 and 257. -/
theorem witness_resize : sx.Inv ∧ 256 ≤ 256 ∧ 256 < 257 := ⟨inv_of_check (by decide), by decide⟩

/-- GetsubExtractsHalfOpenRange and RangeTestsEveryBit: the three clauses at their bounds. -/
theorem witness_ranges :
    (256 ≤ 256 ∧ 256 ≤ 256) ∧ 256 < 257 ∧ (256 ≤ 256 ∧ 256 < 257) ∧
    (Instr.range1 .c0 256 256, true) ∈ [(Instr.range0 .c0 256 256, false), (Instr.range1 .c0 256 256, true)] := by decide

/-- ParseReadsBitString: a bit string, the empty text, a text with another character, and lengths 256 and 257. -/
theorem witness_parse :
    ((withText sx [0x30, 0x31]).tinLen.toNat = 2 ∧ ¬BadBit (withText sx [0x30, 0x31])) ∧
    ((withText sx []).tinLen.toNat ≤ 256 ∧ ¬BadBit (withText sx [])) ∧
    BadBit (withText sx [0x30, 0x32]) ∧ ({ sx with tinLen := 256 }.tinLen.toNat ≤ 256) ∧
    256 < { sx with tinLen := 257 }.tinLen.toNat := by
  refine ⟨⟨by decide, ?_⟩, ⟨by decide, ?_⟩, ⟨1, by decide⟩, by decide, by decide⟩ <;> (unfold BadBit; decide)

/-- ParseOfRenderedContainer. -/
theorem witness_rendered :
    sx.Inv ∧ exec (.render .c1) sx = .next (after (.render .c1) sx) ∧
    exec (.parse .c3) { after (.render .c1) sx with tin := (after (.render .c1) sx).tout, tinLen := 4 } =
      .next (after (.parse .c3) { after (.render .c1) sx with tin := (after (.render .c1) sx).tout, tinLen := 4 }) :=
  ⟨inv_of_check (by decide), rfl, rfl⟩

/-- ContainerIntegerLaws: growing, shrinking and the whole range. -/
theorem witness_containers :
    (⟨12, 0x3D9⟩ : Container).wf ∧ (⟨256, 2 ^ 256 - 1⟩ : Container).wf ∧ (⟨12, 0x3D9⟩ : Container).size ≤ 12 ∧ 0 ≤ 256 := by decide

/-- LselLoadsRomEntry: the first and the last entry, and the first index past them. -/
theorem witness_rom :
    [(1, 5, 10, 15), (1, 8, 10, 127)][1]? = some (1, 8, 10, 127) ∧ layoutRom[8]? = some ⟨1, 8, 10, 127⟩ ∧ 9 ≤ 9 := by decide

/-- LsetLoadsValidRecord: the smallest record, the largest bias, a width of 256 and of 257, and a bias just too large. -/
theorem witness_records :
    ValidRecord 0 2 2 2 ∧ ValidRecord 0 32 10 0xFFFFFFFE ∧ ValidRecord 1 19 236 0x3FFFF ∧ ¬ValidRecord 1 19 237 0x3FFFF ∧
    ¬ValidRecord 0 3 4 7 := by unfold ValidRecord; decide

/-- LayoutRegistersShowLayout, ConstructBuildsLandmark: a valid layout, and none, with an idle engine. -/
theorem witness_layouts :
    ((f32 []).Inv ∧ (f32 []).lr.valid = true) ∧ (lay ⟨0, 3, 4, 3⟩ []).Inv ∧ (lay ⟨0, 3, 4, 3⟩ []).lr.valid = true ∧
    (f32 []).engine = .idle ∧ (f32 []).resetLine = false ∧ sx.Inv ∧ sx.lr.valid = false :=
  ⟨⟨inv_of_check (by decide), by decide⟩, inv_of_check (by decide), by decide, by decide, by decide, inv_of_check (by decide),
   by decide⟩

/-- PackAndFieldsAreInverse, ClassifyInvertsConstruct, LandmarkPatternsAreDistinct: a layout with a sign and one without; a
pattern; and fields at the top of their ranges. -/
theorem witness_pattern :
    (⟨1, 8, 23, 127⟩ : Layout).valid ∧ (⟨0, 3, 4, 3⟩ : Layout).valid ∧ (⟨32, 0xFF800001⟩ : Container).wf ∧
    (⟨32, 0xFF800001⟩ : Container).size = (⟨1, 8, 23, 127⟩ : Layout).width ∧ 255 < 2 ^ 8 ∧ 0x7FFFFF < 2 ^ 23 := by decide

/-- ClassifyNamesLandmark: a NaN, and a pattern that is none; a wrong size; no layout. -/
theorem witness_classify :
    ((f32 []).setC .c2 ⟨32, 0x7F800001⟩).Inv ∧ ((f32 []).setC .c2 ⟨32, 0x7F800001⟩).lr.valid = true ∧
    (((f32 []).setC .c2 ⟨32, 0x7F800001⟩).getC .c2).size = 1 + 8 + 23 ∧
    (expOf ⟨1, 8, 23, 127⟩ 0x7F800001 = 2 ^ 8 - 1 ∧ manOf ⟨1, 8, 23, 127⟩ 0x7F800001 ≠ 0) ∧
    expOf ⟨1, 8, 23, 127⟩ 0xBF800000 ≠ 2 ^ 8 - 1 ∧
    (((f32 []).setC .c2 ⟨32, 0x7F800001⟩).getC .c0).size ≠ 1 + 8 + 23 ∧ sx.lr.valid = false :=
  ⟨inv_of_check (by decide), by decide⟩

/-- NormalizeTrimsAndFolds: a text with bytes to trim and to fold. -/
theorem witness_normalize : normalize [0x20, 0x41, 0x09] = [0x61] := by decide

/-- ParserAcceptsExactlyTheGrammar: a text that is a numeral. -/
theorem witness_parser : parseDecimal [0x2D, 0x2E, 0x35] = some ⟨5, 10⟩ := by decide

/-- EncodeLiteralTokens: "-inf", "nan", and no layout. -/
theorem witness_literals :
    (f32 [0x2D, 0x69, 0x6E, 0x66]).Inv ∧ (f32 [0x2D, 0x69, 0x6E, 0x66]).lr.valid = true ∧
    infBytes <:+: normalize (inputText (f32 [0x2D, 0x69, 0x6E, 0x66])) ∧
    (f32 [0x6E, 0x61, 0x6E]).Inv ∧ ¬(infBytes <:+: normalize (inputText (f32 [0x6E, 0x61, 0x6E]))) ∧
    nanBytes <:+: normalize (inputText (f32 [0x6E, 0x61, 0x6E])) ∧ sx.lr.valid = false :=
  ⟨inv_of_check (by decide), by decide, ⟨[0x2D], [], by decide⟩, inv_of_check (by decide), by decide, ⟨[], [], by decide⟩, by decide⟩

/-- The text "d.c" with one digit on each side is a numeral. -/
theorem numeral_of_digits {s : State} {d c : Byte} (hd : 0x30 ≤ d.toNat ∧ d.toNat ≤ 0x39) (hc : 0x30 ≤ c.toNat ∧ c.toNat ≤ 0x39)
    (h : normalize s.tinText = [d, 0x2E, c]) : TinNumeral s false [d] [c] := by
  refine ⟨?_, .inl (by simp), [], .inr ⟨rfl, .inl rfl⟩, .inl h⟩
  intro x hx
  rcases List.mem_cons.1 hx with rfl | hx
  · exact hd
  · rcases List.mem_cons.1 hx with rfl | hx
    · exact hc
    · cases hx

/-- The value of "d.c". -/
theorem value_of_digits {d c : Byte} {m n : Nat} (hd : d.toNat - 0x30 = m) (hc : c.toNat - 0x30 = n) :
    numeralValue [d] [c] = m + n / 10 := by simp [numeralValue, digitsValue, hd, hc]

/-- EncodeTruncatesAndRoundsHalfUp: "1.5" under float32, e = 0 ≤ mw. -/
theorem witness_encode_number :
    (f32 [0x31, 0x2E, 0x35]).Inv ∧ (f32 [0x31, 0x2E, 0x35]).lr.valid = true ∧ TinNumeral (f32 [0x31, 0x2E, 0x35]) false [0x31] [0x35] ∧
    ((2 : ℚ) ^ (0 : ℤ) ≤ numeralValue [0x31] [0x35] ∧ numeralValue [0x31] [0x35] < (2 : ℚ) ^ ((0 : ℤ) + 1)) ∧
    (0 ≤ (0 : ℤ) + 127 ∧ (0 : ℤ) + 127 < 2 ^ 8 - 1) := by
  refine ⟨inv_of_check (by decide), by decide, numeral_of_digits (by decide) (by decide) (by decide), ?_, by decide⟩
  rw [value_of_digits (m := 1) (n := 5) (by decide) (by decide)]
  norm_num

/-- EncodeTruncatesAndRoundsHalfUp: "9.5" under fp8-e5m2, e = 3 > mw = 2. -/
theorem witness_encode_wide :
    (lay ⟨1, 5, 2, 15⟩ [0x39, 0x2E, 0x35]).Inv ∧ (lay ⟨1, 5, 2, 15⟩ [0x39, 0x2E, 0x35]).lr.valid = true ∧
    TinNumeral (lay ⟨1, 5, 2, 15⟩ [0x39, 0x2E, 0x35]) false [0x39] [0x35] ∧
    ((2 : ℚ) ^ (3 : ℤ) ≤ numeralValue [0x39] [0x35] ∧ numeralValue [0x39] [0x35] < (2 : ℚ) ^ ((3 : ℤ) + 1)) ∧
    (0 ≤ (3 : ℤ) + 15 ∧ (3 : ℤ) + 15 < 2 ^ 5 - 1) ∧ ¬((3 : ℤ) ≤ 2) := by
  refine ⟨inv_of_check (by decide), by decide, numeral_of_digits (by decide) (by decide) (by decide), ?_, by decide, by decide⟩
  rw [value_of_digits (m := 9) (n := 5) (by decide) (by decide)]
  norm_num

/-- EncodeTruncatesAndRoundsHalfUp: the first and the last exponent in range, "0.3" with e + bias = 0 and "1.5" with
e + bias = 2^ew − 2. -/
theorem witness_encode_bounds :
    (lay ⟨1, 3, 2, 2⟩ [0x30, 0x2E, 0x33]).Inv ∧ TinNumeral (lay ⟨1, 3, 2, 2⟩ [0x30, 0x2E, 0x33]) false [0x30] [0x33] ∧
    ((2 : ℚ) ^ (-2 : ℤ) ≤ numeralValue [0x30] [0x33] ∧ numeralValue [0x30] [0x33] < (2 : ℚ) ^ ((-2 : ℤ) + 1)) ∧
    (0 ≤ (-2 : ℤ) + 2 ∧ (-2 : ℤ) + 2 < 2 ^ 3 - 1) ∧
    (lay ⟨1, 2, 2, 2⟩ [0x31, 0x2E, 0x35]).Inv ∧ TinNumeral (lay ⟨1, 2, 2, 2⟩ [0x31, 0x2E, 0x35]) false [0x31] [0x35] ∧
    (0 ≤ (0 : ℤ) + 2 ∧ (0 : ℤ) + 2 < 2 ^ 2 - 1) := by
  refine ⟨inv_of_check (by decide), numeral_of_digits (by decide) (by decide) (by decide), ?_, by decide, inv_of_check (by decide),
    numeral_of_digits (by decide) (by decide) (by decide), by decide⟩
  rw [value_of_digits (m := 0) (n := 3) (by decide) (by decide)]
  norm_num

/-- EncodeOutOfRange: "2.5" overflows the layout ⟨1, 2, 2, 2⟩ (e + bias = 3, the all-ones value), "0.0" is zero, and "0.2" underflows
it (e + bias = −1). -/
theorem witness_encode_range :
    (lay ⟨1, 2, 2, 2⟩ [0x32, 0x2E, 0x35]).Inv ∧ TinNumeral (lay ⟨1, 2, 2, 2⟩ [0x32, 0x2E, 0x35]) false [0x32] [0x35] ∧
    ((2 : ℚ) ^ (1 : ℤ) ≤ numeralValue [0x32] [0x35] ∧ numeralValue [0x32] [0x35] < (2 : ℚ) ^ ((1 : ℤ) + 1)) ∧
    (2 : ℤ) ^ 2 - 1 ≤ 1 + 2 ∧
    TinNumeral (lay ⟨1, 2, 2, 2⟩ [0x30, 0x2E, 0x30]) false [0x30] [0x30] ∧ numeralValue [0x30] [0x30] = 0 ∧
    TinNumeral (lay ⟨1, 2, 2, 2⟩ [0x30, 0x2E, 0x32]) false [0x30] [0x32] ∧
    ((2 : ℚ) ^ (-3 : ℤ) ≤ numeralValue [0x30] [0x32] ∧ numeralValue [0x30] [0x32] < (2 : ℚ) ^ ((-3 : ℤ) + 1)) ∧
    (-3 : ℤ) + 2 < 0 := by
  refine ⟨inv_of_check (by decide), numeral_of_digits (by decide) (by decide) (by decide), ?_, by decide,
    numeral_of_digits (by decide) (by decide) (by decide), ?_, numeral_of_digits (by decide) (by decide) (by decide), ?_, by decide⟩
  · rw [value_of_digits (m := 2) (n := 5) (by decide) (by decide)]
    norm_num
  · rw [value_of_digits (m := 0) (n := 0) (by decide) (by decide)]
    norm_num
  · rw [value_of_digits (m := 0) (n := 2) (by decide) (by decide)]
    norm_num

/-- Round64IsNearestEven: a finite answer and an infinite one. -/
theorem witness_round64 : 0 < 1 ∧ round64 1 1 = .finite (2 ^ 1074) ∧ round64 (2 ^ 1024) 1 = .infinite := by decide +kernel

/-- An fp8-e4m3 bit string in TIN, and the container it shows. -/
theorem shows_of_check {s : State} {x : Container} (h : x.size = s.tinLen.toNat ∧ x.wf ∧
    ∀ c, c < s.tinLen.toNat → x.bit (s.tinLen.toNat - 1 - c) = decide (s.tin.read c = 0x31)) : ShowsTin s x := h

/-- "10000000", "11111000" and "01111001" in TIN under ⟨1, 4, 3, 7⟩. -/
def sZero : State := lay ⟨1, 4, 3, 7⟩ [0x31, 0x30, 0x30, 0x30, 0x30, 0x30, 0x30, 0x30]
def sInf : State := lay ⟨1, 4, 3, 7⟩ [0x31, 0x31, 0x31, 0x31, 0x31, 0x30, 0x30, 0x30]
def sNan : State := lay ⟨1, 4, 3, 7⟩ [0x30, 0x31, 0x31, 0x31, 0x31, 0x30, 0x30, 0x31]

/-- DecodeWritesTokens: a zero, an infinity, a NaN, another length, another character, and no layout. -/
theorem witness_tokens :
    (sZero.Inv ∧ ShowsTin sZero ⟨8, 0x80⟩ ∧ ¬BadBit sZero ∧ sZero.tinLen.toNat = 1 + 4 + 3 ∧ sZero.lr.valid = true) ∧
    (sInf.Inv ∧ ShowsTin sInf ⟨8, 0xF8⟩ ∧ expOf ⟨1, 4, 3, 7⟩ 0xF8 = 2 ^ 4 - 1 ∧ manOf ⟨1, 4, 3, 7⟩ 0xF8 = 0) ∧
    (sNan.Inv ∧ ShowsTin sNan ⟨8, 0x79⟩ ∧ manOf ⟨1, 4, 3, 7⟩ 0x79 ≠ 0) ∧
    (lay ⟨1, 4, 3, 7⟩ []).tinLen.toNat ≠ 1 + 4 + 3 ∧
    BadBit (lay ⟨1, 4, 3, 7⟩ [0x32, 0x30, 0x30, 0x30, 0x30, 0x30, 0x30, 0x30]) ∧ sx.lr.valid = false :=
  ⟨⟨inv_of_check (by decide), shows_of_check (by decide), by unfold BadBit; decide, by decide, by decide⟩,
   ⟨inv_of_check (by decide), shows_of_check (by decide), by decide, by decide⟩,
   ⟨inv_of_check (by decide), shows_of_check (by decide), by decide⟩, by decide, ⟨0, by decide⟩, by decide⟩

/-- "01111110" in TIN under ⟨0, 5, 3, 16⟩: exponent 15 − 16, a number; DecodeIsWithinHalfADigit, both of its parts, and
DecodeOutputIsAtMost1385Bytes. -/
def sNumber : State := lay ⟨0, 5, 3, 16⟩ [0x30, 0x31, 0x31, 0x31, 0x31, 0x31, 0x31, 0x30]

theorem witness_number :
    sNumber.Inv ∧ sNumber.lr.valid = true ∧ ShowsTin sNumber ⟨8, 0x7E⟩ ∧ ¬BadBit sNumber ∧ sNumber.tinLen.toNat = 0 + 5 + 3 ∧
    3 ≤ 52 ∧ expOf ⟨0, 5, 3, 16⟩ 0x7E ≠ 2 ^ 5 - 1 ∧ ¬(expOf ⟨0, 5, 3, 16⟩ 0x7E = 0 ∧ manOf ⟨0, 5, 3, 16⟩ 0x7E = 0) ∧
    (-1 : ℤ) = (expOf ⟨0, 5, 3, 16⟩ 0x7E : ℤ) - 16 ∧ (-1022 : ℤ) ≤ -1 ∧ (-1 : ℤ) ≤ 1023 :=
  ⟨inv_of_check (by decide), by decide, shows_of_check (by decide), by unfold BadBit; decide, by decide⟩

/-- A layout loaded, with the bit string of a pattern in TIN. -/
def sPattern (l : Layout) (bits : Nat) : State := lay l (Container.text ⟨l.width, bits⟩)

/-- DecodeIsWithinHalfADigit: e = −1074, −1023, −1022 and 1023, under layouts of 12 exponent bits. -/
theorem witness_number_bounds :
    ((sPattern ⟨0, 12, 2, 1077⟩ 12).Inv ∧ ShowsTin (sPattern ⟨0, 12, 2, 1077⟩ 12) ⟨14, 12⟩ ∧ ¬BadBit (sPattern ⟨0, 12, 2, 1077⟩ 12) ∧
      (expOf ⟨0, 12, 2, 1077⟩ 12 : ℤ) - 1077 = -1074) ∧
    ((sPattern ⟨0, 12, 2, 1077⟩ 216).Inv ∧ ShowsTin (sPattern ⟨0, 12, 2, 1077⟩ 216) ⟨14, 216⟩ ∧ ¬BadBit (sPattern ⟨0, 12, 2, 1077⟩ 216) ∧
      (expOf ⟨0, 12, 2, 1077⟩ 216 : ℤ) - 1077 = -1023) ∧
    ((sPattern ⟨0, 12, 2, 1077⟩ 220).Inv ∧ ShowsTin (sPattern ⟨0, 12, 2, 1077⟩ 220) ⟨14, 220⟩ ∧ ¬BadBit (sPattern ⟨0, 12, 2, 1077⟩ 220) ∧
      (expOf ⟨0, 12, 2, 1077⟩ 220 : ℤ) - 1077 = -1022) ∧
    ((sPattern ⟨0, 12, 2, 2⟩ 4100).Inv ∧ ShowsTin (sPattern ⟨0, 12, 2, 2⟩ 4100) ⟨14, 4100⟩ ∧ ¬BadBit (sPattern ⟨0, 12, 2, 2⟩ 4100) ∧
      (expOf ⟨0, 12, 2, 2⟩ 4100 : ℤ) - 2 = 1023) :=
  ⟨⟨inv_of_check (by decide), shows_of_check (by decide), by unfold BadBit; decide, by decide⟩,
   ⟨inv_of_check (by decide), shows_of_check (by decide), by unfold BadBit; decide, by decide⟩,
   ⟨inv_of_check (by decide), shows_of_check (by decide), by unfold BadBit; decide, by decide⟩,
   ⟨inv_of_check (by decide), shows_of_check (by decide), by unfold BadBit; decide, by decide⟩⟩

/-- DecodeIsWithinHalfADigit: more than 52 mantissa bits, all ones, at e = 1023. -/
theorem witness_number_wide :
    (sPattern ⟨0, 12, 60, 2⟩ (1026 * 2 ^ 60 - 1)).Inv ∧
    ShowsTin (sPattern ⟨0, 12, 60, 2⟩ (1026 * 2 ^ 60 - 1)) ⟨72, 1026 * 2 ^ 60 - 1⟩ ∧
    ¬BadBit (sPattern ⟨0, 12, 60, 2⟩ (1026 * 2 ^ 60 - 1)) ∧ (expOf ⟨0, 12, 60, 2⟩ (1026 * 2 ^ 60 - 1) : ℤ) - 2 = 1023 :=
  ⟨inv_of_check (by decide +kernel), shows_of_check (by decide +kernel), by unfold BadBit; decide +kernel, by decide⟩

/-- DecodeIsWithinHalfADigit: both branches on the product, at magnitude 2 with e = 1023 and at magnitude 1 with e = 0. -/
theorem witness_products :
    overflowUnits ≤ ((2 ^ 1075 : Nat) : ℚ) * (2 : ℚ) ^ (1023 : ℤ) ∧ ((2 ^ 1074 : Nat) : ℚ) * (2 : ℚ) ^ (0 : ℤ) < overflowUnits := by
  have e1 : (2 : ℚ) ^ (1023 : ℤ) = 2 ^ 1023 := zpow_natCast 2 1023
  have e2 : (2 : ℚ) ^ 2098 = 2 ^ 1075 * 2 ^ 1023 := by rw [← pow_add]
  have e3 : (2 : ℚ) ^ 2098 = 2 ^ 54 * 2 ^ 2044 := by rw [← pow_add]
  have e4 : (2 : ℚ) ^ 2044 = 2 ^ 970 * 2 ^ 1074 := by rw [← pow_add]
  have hp : (0 : ℚ) < 2 ^ 2044 := by positivity
  have hq : (1 : ℚ) ≤ 2 ^ 970 := one_le_pow₀ (by decide)
  have hr : (0 : ℚ) < 2 ^ 1074 := by positivity
  have hle : (2 : ℚ) ^ 1074 ≤ 2 ^ 2044 := by rw [e4]; exact le_mul_of_one_le_left hr.le hq
  refine ⟨?_, ?_⟩
  · rw [overflowUnits, Nat.cast_pow, Nat.cast_ofNat, e1, ← e2]
    exact sub_le_self _ hp.le
  · rw [overflowUnits, Nat.cast_pow, Nat.cast_ofNat, zpow_zero, mul_one, e3]
    clear e1 e2 e3 e4 hq hr
    generalize (2 : ℚ) ^ 2044 = y at *
    generalize (2 : ℚ) ^ 1074 = z at *
    linarith

/-- DecodeOutsideBinary64Range: e = 1024 and e = −1075. -/
theorem witness_outside_range :
    ((sPattern ⟨0, 12, 2, 2⟩ 4104).Inv ∧ (sPattern ⟨0, 12, 2, 2⟩ 4104).lr.valid = true ∧ ShowsTin (sPattern ⟨0, 12, 2, 2⟩ 4104) ⟨14, 4104⟩ ∧
      ¬BadBit (sPattern ⟨0, 12, 2, 2⟩ 4104) ∧ (sPattern ⟨0, 12, 2, 2⟩ 4104).tinLen.toNat = 0 + 12 + 2 ∧
      expOf ⟨0, 12, 2, 2⟩ 4104 ≠ 2 ^ 12 - 1 ∧ (expOf ⟨0, 12, 2, 2⟩ 4104 : ℤ) - 2 = 1024) ∧
    ((sPattern ⟨0, 12, 2, 1077⟩ 8).Inv ∧ ShowsTin (sPattern ⟨0, 12, 2, 1077⟩ 8) ⟨14, 8⟩ ∧ ¬BadBit (sPattern ⟨0, 12, 2, 1077⟩ 8) ∧
      (expOf ⟨0, 12, 2, 1077⟩ 8 : ℤ) - 1077 = -1075) :=
  ⟨⟨inv_of_check (by decide), by decide, shows_of_check (by decide), by unfold BadBit; decide, by decide⟩,
   ⟨inv_of_check (by decide), shows_of_check (by decide), by unfold BadBit; decide, by decide⟩⟩

/-- CommandReportsItsFirstError: no condition, and a condition of each code with none below it. -/
theorem witness_no_error : sx.Inv ∧ ∀ e, ¬ErrorCondition (.all0 .c3 256) sx e :=
  ⟨inv_of_check (by decide), fun e => by cases e <;> simp [ErrorCondition]⟩

theorem witness_errors :
    ErrorCondition (.lsel 9) sx .layout ∧ ErrorCondition (.all0 .c3 257) sx .capacity ∧
    (ErrorCondition (.getsub .c3 .c0 257 256) sx .range ∧ ¬ErrorCondition (.getsub .c3 .c0 257 256) sx .capacity) ∧
    (ErrorCondition (.parseN .c3 256) sx .length ∧ ¬ErrorCondition (.parseN .c3 256) sx .capacity) ∧
    ErrorCondition (.parse .c3) (withText sx [0x32]) .bits ∧ decode 0 = .error .unassignedOpcode := by
  refine ⟨?_, ?_, ⟨?_, ?_⟩, ⟨?_, ?_⟩, ⟨0, by decide⟩, by decide⟩ <;> (simp only [ErrorCondition]; decide)

/-- CommandReportsItsFirstError: the empty text is malformed. -/
theorem witness_text_error : (f32 []).lr.valid = true ∧ ErrorCondition (.encode .c0) (f32 []) .text := by
  refine ⟨by decide, by decide, by decide, ?_⟩
  rintro ⟨neg, a, b, -, hne, sg, -, h⟩
  have hn : normalize (inputText (f32 [])) = [] := by decide
  rw [hn] at h
  rcases h with h | ⟨rfl, h⟩
  · simp at h
  · have h' := congrArg List.length h
    simp only [List.length_nil, List.length_append] at h'
    have : a = [] := List.eq_nil_of_length_eq_zero (by omega)
    simp [this] at hne

/-- OnlyTheDestinationRegisterChanges, OnlyNamedCommandsWriteLayoutAndBuffers, OnlyNamedCommandsWriteResult: a command that completes,
and registers, flags and failures that the statements speak of. -/
theorem witness_frames :
    exec (.set .c0 0 true) sx = .next (after (.set .c0 0 true) sx) ∧ Instr.destination (.set .c0 0 true) ≠ some .c1 ∧
    Instr.writesLayout (.set .c0 0 true) = false ∧ Instr.writesTout (.set .c0 0 true) = false ∧
    Instr.writesBool (.set .c0 0 true) = false ∧ Instr.writesClass (.set .c0 0 true) = false ∧
    (after (.range0 .c0 2 1) sx).err ≠ .ok := ⟨rfl, by decide⟩

/-- CommandEffectsDependOnOperandsOnly: two states with the same operands and different flags. -/
theorem witness_same_operands : SameOperands sx { sx with errs := true, resultBool := true } ∧
    sx ≠ { sx with errs := true, resultBool := true } := by unfold SameOperands; decide

/-- StepKeepsInvariant. -/
theorem witness_step : sx.Inv ∧ step sx = .next sx := ⟨inv_of_check (by decide), rfl⟩

/-- ResetInputRestoresResetState: reset asserted on an idle and on a busy engine, and each access while it is asserted. -/
theorem witness_reset_input :
    ({ sx with pending := [.assertReset] }.resetLine = false ∧ { sx with pending := [.assertReset] }.engine = .idle) ∧
    ((sBusy 0x31 .assertReset).wait ≠ 0 ∧ (sBusy 0x31 .assertReset).pending = .assertReset :: []) ∧
    { sx with resetLine := true, pending := [.releaseReset] }.resetLine = true ∧ (0x2FFC : BitVec 14).toNat % 4 = 0 := by decide

/-- CmdWriteStartsCommand and OperandWritesStoreTheirFields. -/
theorem witness_cmd_write :
    { sx with pending := [.write 0x0008 4 0x31] }.engine = .idle ∧ { sx with pending := [.write 0x0008 4 0x31] }.resetLine = false ∧
    { sx with pending := [.write 0x0008 4 0x31] }.pending = .write 0x0008 4 0x31 :: [] := by decide

/-- BusyWritesAreDropped: an operand register at each end of the map, STATUS, and a read-only register. -/
theorem witness_busy_write :
    (sBusy 0x31 (.write 0x0008 4 0x31)).engine = .busy 0x31 ∧ (sBusy 0x31 (.write 0x0008 4 0x31)).resetLine = false ∧
      (sBusy 0x31 (.write 0x0008 4 0x31)).wait ≠ 0 ∧
      (sBusy 0x31 (.write 0x0008 4 0x31)).pending = .write 0x0008 4 0x31 :: [] := by decide

theorem witness_operand_offsets :
    OperandOffset 0x0008 ∧ OperandOffset 0x1000 ∧ OperandOffset 0x1FFC ∧ ¬OperandOffset 0x0FFC ∧ ¬OperandOffset 0x2000 ∧
    ¬OperandOffset 0x0C := by simp [OperandOffset]

/-- TextWindowIsLittleEndian: the last word of each buffer. -/
theorem witness_text_window :
    sx.Inv ∧ sx.engine = .idle ∧ sx.resetLine = false ∧ 1023 < 1024 ∧ 3 < 4 ∧ (0x1FFC : BitVec 14).toNat = 0x1000 + 4 * 1023 ∧
    (0x2FFC : BitVec 14).toNat = 0x2000 + 4 * 1023 := ⟨inv_of_check (by decide), by decide⟩

/-- StatusBitsAndClearing, ResultShowsBoolAndClassCode: a code of each list. -/
theorem witness_codes :
    sx.resetLine = false ∧ sx.engine = .idle ∧ sx.err = .ok ∧ (ErrorCode.ok, 0) ∈ [(ErrorCode.ok, 0), (.text, 7)] ∧ sx.resultClass = .none ∧
    (ClassCode.none, 15) ∈ [(ClassCode.sgt1, 12), (.none, 15)] := by decide

/-- RefusedAndIgnoredAccesses, ReadsHaveNoSideEffects: both ways an access is illegal, and the ends of the unmapped ranges. -/
theorem witness_accesses :
    sx.resetLine = false ∧ 2 ≠ 4 ∧ (0x0002 : BitVec 14).toNat % 4 ≠ 0 ∧ (0x003C : BitVec 14).toNat = 0x3C ∧
    (0x0124 : BitVec 14).toNat % 0x40 = 0x24 ∧ (0x3FFC : BitVec 14).toNat % 4 = 0 ∧ ¬OperandOffset (0x0000 : BitVec 14).toNat := by
  unfold OperandOffset; decide

/-- ContainerWindowShowsRegisters: the last word of the last register. -/
theorem witness_container_window :
    sx.Inv ∧ (0x02C0 : BitVec 14).toNat = 0x100 + 0x40 * indexOf .c7 ∧ (0x02E0 : BitVec 14).toNat = 0x104 + 0x40 * indexOf .c7 + 4 * 7 :=
  ⟨inv_of_check (by decide), by decide⟩

/-- BusyEngineFinishes. -/
theorem witness_busy : (sBusy 0x31 .assertReset).engine = .busy 0x31 ∧ (sBusy 0x31 .assertReset).resetLine = false := by decide

/-- WaitingHostSeesTheCommandUnderEveryLatency. -/
theorem witness_waiting_host :
    Instr.wellFormed .decode = true ∧ { sx with pending := macroDo .decode }.engine = .idle ∧
    { sx with pending := macroDo .decode }.resetLine = false ∧
    { sx with pending := macroDo .decode }.pending = macroDo .decode ++ [] := by decide

end Sys2Proof.Tests
end

section
/-! round64 against binary64 (R16). The rounding unit of q is the power 2^k with q below 2^53 of it and, unless k = 0, at least
2^52 of it. Rounding q / 2^k to an integer with ties to even is then rounding q to binary64, since every binary64 value is a
multiple of 2^k or lies below the binade of q. -/

namespace Sys2Proof.Proofs

open Sys2Proof.Machine Sys2Proof.Claims

/-! ### The nearest integer, ties to even -/

theorem nearestInt_roundHalfEven (a : ℕ) {b : ℕ} (hb : 0 < b) : NearestInt ((a : ℚ) / b) (roundHalfEven a b) := by
  have hb' : (0 : ℚ) < b := Nat.cast_pos.2 hb
  have hval : (a : ℚ) / b = (a / b : ℕ) + ((a % b : ℕ) : ℚ) / b := by
    rw [div_eq_iff hb'.ne', add_mul, div_mul_cancel₀ _ hb'.ne']
    exact_mod_cast (Nat.div_add_mod' a b).symm
  have hnonneg : 0 ≤ ((a % b : ℕ) : ℚ) / b := by positivity
  have hlt1 : ((a % b : ℕ) : ℚ) / b < 1 := (div_lt_one hb').2 (Nat.cast_lt.2 (Nat.mod_lt a hb))
  have hlow : ((a % b : ℕ) : ℚ) / b < 1 / 2 ↔ 2 * (a % b) < b := by
    rw [div_lt_div_iff₀ hb' two_pos, one_mul, mul_comm]; exact_mod_cast Iff.rfl
  have hhigh : 1 / 2 < ((a % b : ℕ) : ℚ) / b ↔ b < 2 * (a % b) := by
    rw [div_lt_div_iff₀ two_pos hb', one_mul, mul_comm]; exact_mod_cast Iff.rfl
  rw [hval, roundHalfEven]
  generalize ((a % b : ℕ) : ℚ) / b = f at *
  split_ifs with h1 h2 h3
  · have := hlow.2 h1
    rw [NearestInt, sub_add_cancel_left, abs_neg, abs_of_nonneg hnonneg]
    exact ⟨this.le, fun h => absurd h this.ne⟩
  · have := hhigh.2 h2
    rw [NearestInt, Nat.cast_succ, add_sub_add_left_eq_sub, abs_of_pos (sub_pos.2 hlt1)]
    exact ⟨by linarith, fun h => by linarith⟩
  · rw [NearestInt, sub_add_cancel_left, abs_neg, abs_of_nonneg hnonneg]
    exact ⟨not_lt.1 (mt hhigh.1 h2), fun _ => h3⟩
  · have := not_lt.1 (mt hlow.1 h1)
    rw [NearestInt, Nat.cast_succ, add_sub_add_left_eq_sub, abs_of_pos (sub_pos.2 hlt1)]
    exact ⟨by linarith, fun _ => by omega⟩

section NearestInt

variable {x : ℚ} {n : ℕ} (h : NearestInt x n)
include h

theorem nearestInt_bounds : x - 1 / 2 ≤ n ∧ (n : ℚ) ≤ x + 1 / 2 := by
  obtain ⟨hlow, hhigh⟩ := abs_le.1 h.1
  constructor <;> linarith

theorem half_le_abs_sub_of_nearestInt {j : ℕ} (hj : j ≠ n) : 1 / 2 ≤ |(j : ℚ) - x| := by
  have hgap : (1 : ℚ) ≤ |(j : ℚ) - n| := by
    exact_mod_cast Int.one_le_abs (sub_ne_zero.2 (Nat.cast_injective.ne hj))
  have := abs_sub_le (j : ℚ) x n
  rw [abs_sub_comm x n] at this
  linarith [h.1]

theorem abs_sub_le_of_nearestInt (j : ℕ) : |(n : ℚ) - x| ≤ |(j : ℚ) - x| := by
  by_cases hj : j = n
  · rw [hj]
  · exact h.1.trans (half_le_abs_sub_of_nearestInt h hj)

theorem even_of_tie_of_nearestInt {j : ℕ} (hj : j ≠ n) (htie : |(n : ℚ) - x| = |(j : ℚ) - x|) : n % 2 = 0 :=
  h.2 (h.1.antisymm (htie ▸ half_le_abs_sub_of_nearestInt h hj))

theorem le_nearestInt {j : ℕ} (hj : (j : ℚ) ≤ x) : j ≤ n := by
  have hlt : (j : ℚ) < n + 1 := by linarith [nearestInt_bounds h]
  exact Nat.lt_succ_iff.1 (by exact_mod_cast hlt)

theorem nearestInt_le {j : ℕ} (hj : x ≤ j) : n ≤ j := by
  have hlt : (n : ℚ) < j + 1 := by linarith [nearestInt_bounds h]
  exact Nat.lt_succ_iff.1 (by exact_mod_cast hlt)

/-- An even integer is reached from the midpoint below it on: the tie goes up to it. -/
theorem even_le_nearestInt_iff {j : ℕ} (hj : j % 2 = 0) : j ≤ n ↔ (j : ℚ) - 1 / 2 ≤ x := by
  obtain ⟨hlow, hhigh⟩ := nearestInt_bounds h
  constructor
  · intro hle
    have : (j : ℚ) ≤ n := Nat.cast_le.2 hle
    linarith
  · intro hx
    by_contra! hlt
    have hsucc : (n : ℚ) + 1 ≤ j := by exact_mod_cast hlt
    have hnext : (j : ℚ) = n + 1 := by linarith
    have hodd : n + 1 = j := by exact_mod_cast hnext.symm
    have htie : |(n : ℚ) - x| = |(j : ℚ) - x| := by
      rw [show x = n + 1 / 2 by linarith, hnext, sub_add_cancel_left, add_sub_add_left_eq_sub]; norm_num
    have := even_of_tie_of_nearestInt h hlt.ne' htie
    omega

end NearestInt

/-! ### The rounding unit -/

/-- The rounding unit of q units is 2^k: q is below 2^53 of it and, unless k = 0, at least 2^52 of it. -/
def RoundingUnit (q : ℚ) (k : ℕ) : Prop := q < 2 ^ 53 * 2 ^ k ∧ (k = 0 ∨ 2 ^ 52 * 2 ^ k ≤ q)

/-- The bits round64 drops are those below the rounding unit. -/
theorem roundingUnit_log2 (a : ℕ) {b : ℕ} (hb : 0 < b) : RoundingUnit ((a : ℚ) / b) (Nat.log2 (a / b) - 52) := by
  have hb' : (0 : ℚ) < b := Nat.cast_pos.2 hb
  constructor
  · have hlt : a / b < 2 ^ 53 * 2 ^ (Nat.log2 (a / b) - 52) := by
      rw [← pow_add]
      exact Nat.lt_log2_self.trans_le (Nat.pow_le_pow_right two_pos (by omega))
    rw [div_lt_iff₀ hb']
    exact_mod_cast (Nat.div_lt_iff_lt_mul hb).1 hlt
  · refine or_iff_not_imp_left.2 fun hk => ?_
    have hpos : a / b ≠ 0 := fun h0 => hk (by rw [h0]; rfl)
    have hle : 2 ^ 52 * 2 ^ (Nat.log2 (a / b) - 52) ≤ a / b := by
      rw [← pow_add, show 52 + (Nat.log2 (a / b) - 52) = Nat.log2 (a / b) by omega]
      exact Nat.log2_self_le hpos
    rw [le_div_iff₀ hb']
    exact_mod_cast (Nat.le_div_iff_mul_le hb).1 hle

/-- A binary64 value that is no multiple of 2^k is below the values that have 2^k as their unit. -/
theorem multiple_or_lt_of_isBinary64 {v : ℕ} (hv : IsBinary64 v) (k : ℕ) :
    (∃ j, v = j * 2 ^ k) ∨ (k ≠ 0 ∧ v < 2 ^ 52 * 2 ^ k) := by
  obtain ⟨m, e, rfl, hm, -, -⟩ := hv
  obtain hke | hek := Nat.lt_or_ge e k
  · refine Or.inr ⟨Nat.ne_zero_of_lt hke, ?_⟩
    calc m * 2 ^ e < 2 ^ 53 * 2 ^ e := Nat.mul_lt_mul_of_pos_right hm (by positivity)
      _ = 2 ^ 52 * 2 ^ (e + 1) := by ring
      _ ≤ 2 ^ 52 * 2 ^ k := Nat.mul_le_mul_left _ (Nat.pow_le_pow_right two_pos hke)
  · left
    exact ⟨m * 2 ^ (e - k), by rw [mul_assoc, ← pow_add, Nat.sub_add_cancel hek]⟩

theorem abs_mul_two_pow_sub (q : ℚ) (j k : ℕ) : |((j * 2 ^ k : ℕ) : ℚ) - q| = |(j : ℚ) - q / 2 ^ k| * 2 ^ k := by
  have hpos : (0 : ℚ) < 2 ^ k := by positivity
  rw [← abs_of_pos hpos, ← abs_mul, abs_of_pos hpos, sub_mul, div_mul_cancel₀ _ hpos.ne']
  push_cast; rfl

/-- The overflow threshold lies half a unit of 2^2045 below 2^53 of them. -/
theorem overflowUnits_eq : overflowUnits = (2 ^ 54 - 1) * 2 ^ 2044 := by
  rw [overflowUnits, sub_one_mul, ← pow_add]

section Rounding

variable {q : ℚ} {k n : ℕ} (hq : RoundingUnit q k) (hn : NearestInt (q / 2 ^ k) n)
include hq hn

theorem nearestInt_le_two_pow_53 : n ≤ 2 ^ 53 :=
  nearestInt_le hn (by rw [div_le_iff₀ (by positivity)]; exact_mod_cast hq.1.le)

theorem two_pow_52_le_nearestInt (hk : k ≠ 0) : 2 ^ 52 ≤ n :=
  le_nearestInt hn (by rw [le_div_iff₀ (by positivity)]; exact_mod_cast hq.2.resolve_left hk)

/-- The rounded value is a binary64 value whose significand is n, or 2^52 when n has carried to 2^53. -/
theorem representation_of_nearestInt (hlt : n * 2 ^ k < 2 ^ 2098) :
    ∃ m e, Representation (n * 2 ^ k) m e ∧ (n % 2 = 0 → m % 2 = 0) := by
  obtain hn53 | hn53 := (nearestInt_le_two_pow_53 hq hn).lt_or_eq
  · refine ⟨n, k, ⟨rfl, hn53, ?_, hlt⟩, id⟩
    exact or_iff_not_imp_left.2 (two_pow_52_le_nearestInt hq hn)
  · refine ⟨2 ^ 52, k + 1, ⟨by rw [hn53]; ring, by decide, Or.inr le_rfl, hlt⟩, fun _ => by decide⟩

theorem nearest64_of_nearestInt (hlt : n * 2 ^ k < 2 ^ 2098) : Nearest64 q (n * 2 ^ k) := by
  obtain ⟨m, e, hrep, heven⟩ := representation_of_nearestInt hq hn hlt
  have hnearest (j : ℕ) : |((n * 2 ^ k : ℕ) : ℚ) - q| ≤ |((j * 2 ^ k : ℕ) : ℚ) - q| := by
    rw [abs_mul_two_pow_sub, abs_mul_two_pow_sub]
    exact mul_le_mul_of_nonneg_right (abs_sub_le_of_nearestInt hn j) (by positivity)
  refine ⟨⟨m, e, hrep⟩, fun v hv => ?_⟩
  obtain ⟨j, rfl⟩ | ⟨hk, hv⟩ := multiple_or_lt_of_isBinary64 hv k
  · refine ⟨hnearest j, fun hne htie => ⟨m, e, hrep, heven ?_⟩⟩
    rw [abs_mul_two_pow_sub, abs_mul_two_pow_sub] at htie
    exact even_of_tie_of_nearestInt hn (fun hj => hne (hj ▸ rfl)) (mul_right_cancel₀ (by positivity) htie)
  · have hbinade : ((2 ^ 52 * 2 ^ k : ℕ) : ℚ) ≤ q := by exact_mod_cast hq.2.resolve_left hk
    have hbelow : (v : ℚ) < (2 ^ 52 * 2 ^ k : ℕ) := Nat.cast_lt.2 hv
    have hcloser : |((n * 2 ^ k : ℕ) : ℚ) - q| < |(v : ℚ) - q| := by
      refine (hnearest (2 ^ 52)).trans_lt ?_
      rw [abs_of_nonpos (sub_nonpos.2 hbinade), abs_of_neg (sub_neg.2 (hbelow.trans_le hbinade))]
      linarith
    exact ⟨hcloser.le, fun _ htie => absurd htie hcloser.ne⟩

/-- The rounded value reaches the value 2^53 of the unit 2^(t+1) exactly from the midpoint below it on: with k = t + 1 that
midpoint is a tie, which goes up to the even 2^53; with a smaller unit both sides fail, with a larger one both hold. -/
theorem two_pow_53_mul_le_iff (t : ℕ) : 2 ^ 53 * 2 ^ (t + 1) ≤ n * 2 ^ k ↔ (2 ^ 54 - 1) * 2 ^ t ≤ q := by
  have hpos : (0 : ℚ) < 2 ^ t := by positivity
  obtain hk | rfl | hk := lt_trichotomy k (t + 1)
  · have hunit : (2 : ℚ) ^ k ≤ 2 ^ t := pow_le_pow_right₀ one_le_two (Nat.lt_succ_iff.1 hk)
    refine iff_of_false (not_le.2 ?_) (not_le.2 (by linarith [hq.1]))
    calc n * 2 ^ k ≤ 2 ^ 53 * 2 ^ k := Nat.mul_le_mul_right _ (nearestInt_le_two_pow_53 hq hn)
      _ < 2 ^ 53 * 2 ^ (t + 1) := Nat.mul_lt_mul_of_pos_left (Nat.pow_lt_pow_right one_lt_two hk) (by positivity)
  · rw [Nat.mul_le_mul_right_iff (by positivity), even_le_nearestInt_iff hn (by decide), le_div_iff₀ (by positivity),
      pow_succ (2 : ℚ) t]
    have hmid : (((2 ^ 53 : ℕ) : ℚ) - 1 / 2) * (2 ^ t * 2) = (2 ^ 54 - 1) * 2 ^ t := by push_cast; ring
    rw [hmid]
  · have hunit : (2 : ℚ) ^ (t + 2) ≤ 2 ^ k := pow_le_pow_right₀ one_le_two hk
    have hk0 : k ≠ 0 := Nat.ne_zero_of_lt hk
    refine iff_of_true ?_ ?_
    · calc 2 ^ 53 * 2 ^ (t + 1) = 2 ^ 52 * 2 ^ (t + 2) := by ring
        _ ≤ n * 2 ^ k := Nat.mul_le_mul (two_pow_52_le_nearestInt hq hn hk0) (Nat.pow_le_pow_right two_pos hk)
    · have := hq.2.resolve_left hk0
      rw [pow_add] at hunit
      linarith

/-- The rounded value reaches 2^2098 exactly from the overflow threshold on. -/
theorem overflow_iff : 2 ^ 2098 ≤ n * 2 ^ k ↔ overflowUnits ≤ q := by
  rw [overflowUnits_eq, ← two_pow_53_mul_le_iff hq hn, ← pow_add]

end Rounding

/-! ### round64 -/

/-- round64 rounds q to a whole number of its rounding units; a result of 2^2098 or more is +∞. -/
theorem round64_spec (num : ℕ) {den : ℕ} (hden : 0 < den) :
    ∃ k n, RoundingUnit ((num : ℚ) * 2 ^ 1074 / den) k ∧ NearestInt ((num : ℚ) * 2 ^ 1074 / den / 2 ^ k) n ∧
      round64 num den = if n * 2 ^ k < 2 ^ 2098 then .finite (n * 2 ^ k) else .infinite := by
  have hunits : (num : ℚ) * 2 ^ 1074 = (num * unitsPerOne : ℕ) := by rw [Nat.cast_mul, Nat.cast_pow, Nat.cast_ofNat]
  have hnear := nearestInt_roundHalfEven (num * unitsPerOne)
    (Nat.mul_pos hden (Nat.two_pow_pos (Nat.log2 (num * unitsPerOne / den) - 52)))
  rw [Nat.cast_mul den, Nat.cast_pow 2 (_ - _), Nat.cast_ofNat, ← div_div] at hnear
  rw [hunits]
  exact ⟨_, _, roundingUnit_log2 _ hden, hnear, by simp only [round64, Nat.reduceAdd]⟩

/-- Settles O34: q is rounded to a whole number of its rounding units, which is nearest and overflows at the stated threshold. -/
theorem round64IsNearestEven : Obligations.Round64IsNearestEven := by
  rintro num den hden q rfl
  obtain ⟨k, n, hunit, hnear, hround⟩ := round64_spec num hden
  rw [hround, ← overflow_iff hunit hnear]
  obtain hlt | hge := Nat.lt_or_ge (n * 2 ^ k) (2 ^ 2098)
  · rw [if_pos hlt]
    exact ⟨fun u hu => Binary64.finite.inj hu ▸ nearest64_of_nearestInt hunit hnear hlt, iff_of_false nofun hlt.not_ge⟩
  · rw [if_neg hge.not_gt]
    exact ⟨nofun, iff_of_true rfl hge⟩

end Sys2Proof.Proofs
end

section
/-! What a command can do (R35, R37, R42, R47, R352), said once: every command ends in one of a few ways, and what it writes is
in legal form when the state it starts in is. -/

namespace Sys2Proof.Proofs

open Sys2Proof Sys2Proof.Machine Sys2Proof.Laws

/-! ### The length of what DECODE writes -/

theorem length_paddedDecimal (len n : Nat) (acc : List Byte) : (paddedDecimal len n acc).length = len + acc.length := by
  induction len generalizing n acc with
  | zero => simp [paddedDecimal]
  | succ len ih => rw [paddedDecimal, ih, List.length_cons]; omega

theorem paddedDecimal_append (len n : Nat) (acc : List Byte) : paddedDecimal len n acc = paddedDecimal len n [] ++ acc := by
  induction len generalizing n acc with
  | zero => rfl
  | succ len ih => rw [paddedDecimal, paddedDecimal, ih, ih _ [_], List.append_assoc, List.singleton_append]

/-- The k last digits of a multiple of 10^k are '0'. -/
theorem paddedDecimal_mul_ten_pow (len k m : Nat) :
    paddedDecimal (len + k) (m * 10 ^ k) [] = paddedDecimal len m [] ++ List.replicate k charZero := by
  induction k with
  | zero => simp
  | succ k ih =>
    have hdiv : m * 10 ^ (k + 1) / 10 = m * 10 ^ k := by rw [pow_succ, ← mul_assoc, Nat.mul_div_cancel _ (by decide)]
    have hmod : m * 10 ^ (k + 1) % 10 = 0 := by rw [pow_succ, ← mul_assoc, Nat.mul_mod_left]
    have hzero : digitChar 0 = charZero := rfl
    rw [← Nat.add_assoc, paddedDecimal, hdiv, hmod, hzero, paddedDecimal_append, ih, List.append_assoc,
      List.replicate_succ']

theorem stripZeros_append_replicate (t : List Byte) (k : Nat) : stripZeros (t ++ List.replicate k charZero) = stripZeros t := by
  rw [stripZeros, stripZeros, List.reverse_append, List.reverse_replicate, List.dropWhile_append_of_pos]
  simp

theorem length_stripZeros_le (t : List Byte) : (stripZeros t).length ≤ t.length := by
  rw [stripZeros, List.length_reverse, ← List.length_reverse (as := t)]
  exact List.length_dropWhile_le _ _

/-- Trailing '0's of the fraction are not written (R318). -/
theorem fractionText_mul_ten_pow (p k m : Nat) : fractionText (p + k) (m * 10 ^ k) = fractionText p m := by
  rw [fractionText, fractionText, paddedDecimal_mul_ten_pow, stripZeros_append_replicate]

theorem length_fractionText_le (p fp : Nat) : (fractionText p fp).length ≤ max 1 p := by
  have hle := length_stripZeros_le (paddedDecimal p fp [])
  rw [length_paddedDecimal, List.length_nil] at hle
  rw [fractionText]
  split
  · exact le_max_left 1 p
  · exact hle.trans (le_max_right 1 p)

theorem length_decimalText_le (n : Nat) : (decimalText n).length ≤ Nat.log2 n + 1 := by
  have hle := List.length_dropWhile_le (· == charZero) (paddedDecimal (Nat.log2 n + 1) n [])
  rw [length_paddedDecimal, List.length_nil] at hle
  rw [decimalText]
  split
  · exact Nat.le_add_left 1 _
  · exact hle

theorem length_withSign_le (s : Bool) (t : List Byte) : (withSign s t).length ≤ t.length + 1 := by
  cases s <;> simp [withSign]

theorem roundHalfEven_mul_left {b : Nat} (hb : 0 < b) (m : Nat) : roundHalfEven (b * m) b = m := by
  rw [roundHalfEven, Nat.mul_mod_right, Nat.mul_div_cancel_left m hb]
  simp [hb]

theorem roundHalfEven_le (a b : Nat) : roundHalfEven a b ≤ a / b + 1 := by
  rw [roundHalfEven]
  split_ifs <;> omega

/-- A multiple of 2^−u has at most u decimals, so at a higher precision nothing is rounded. -/
theorem roundHalfEven_mul_ten_pow (units u k : Nat) :
    roundHalfEven (units * 10 ^ (u + k)) (2 ^ u) = units * 5 ^ u * 10 ^ k := by
  have hexact : units * 10 ^ (u + k) = 2 ^ u * (units * 5 ^ u * 10 ^ k) := by
    rw [pow_add, show (10 : Nat) ^ u = 2 ^ u * 5 ^ u from mul_pow 2 5 u]; ring
  rw [hexact, roundHalfEven_mul_left (Nat.two_pow_pos u)]

/-- Whatever the precision, the fraction of a multiple of 2^−u has at most u decimals, or the one '0' of an empty fraction. -/
theorem length_fractionText_units_le (units u p : Nat) :
    (fractionText p (roundHalfEven (units * 10 ^ p) (2 ^ u) % 10 ^ p)).length ≤ max 1 u := by
  obtain hp | hp := Nat.le_total p u
  · exact (length_fractionText_le _ _).trans (max_le_max_left 1 hp)
  · obtain ⟨k, rfl⟩ := Nat.exists_eq_add_of_le hp
    rw [roundHalfEven_mul_ten_pow, pow_add, Nat.mul_mod_mul_right, fractionText_mul_ten_pow]
    exact length_fractionText_le _ _

/-- A value below 2^e has an integer part of at most 2^e after rounding. -/
theorem log2_integerPart_le {units u e : Nat} (h : units < 2 ^ (e + u)) (p : Nat) :
    Nat.log2 (roundHalfEven (units * 10 ^ p) (2 ^ u) / 10 ^ p) ≤ e := by
  have hlt : units * 10 ^ p / 2 ^ u < 2 ^ e * 10 ^ p := by
    rw [Nat.div_lt_iff_lt_mul (Nat.two_pow_pos u)]
    calc units * 10 ^ p < 2 ^ (e + u) * 10 ^ p := Nat.mul_lt_mul_of_pos_right h (by positivity)
      _ = 2 ^ e * 10 ^ p * 2 ^ u := by ring
  have hle : roundHalfEven (units * 10 ^ p) (2 ^ u) / 10 ^ p ≤ 2 ^ e :=
    Nat.div_le_of_le_mul (mul_comm (2 ^ e) _ ▸ (roundHalfEven_le _ _).trans hlt)
  rw [Nat.log2_eq_log_two]
  exact (Nat.log_mono_right hle).trans (Nat.log_pow Nat.one_lt_two e).le

theorem length_formatFinite_le (s : Bool) (p : Nat) {units : Nat} (h : units < 2 ^ (1024 + 1074)) :
    (formatFinite s p units).length ≤ 2101 := by
  have hsign := length_withSign_le s (decimalText (roundHalfEven (units * 10 ^ p) (2 ^ 1074) / 10 ^ p) ++
    charPoint :: fractionText p (roundHalfEven (units * 10 ^ p) (2 ^ 1074) % 10 ^ p))
  have hint := length_decimalText_le (roundHalfEven (units * 10 ^ p) (2 ^ 1074) / 10 ^ p)
  have hfrac := length_fractionText_units_le units 1074 p
  have hlog := log2_integerPart_le h p
  rw [List.length_append, List.length_cons] at hsign
  rw [formatFinite]
  exact hsign.trans (by omega)

theorem round64_finite_lt {num den units : Nat} (h : round64 num den = .finite units) : units < 2 ^ (1024 + 1074) := by
  rw [round64] at h
  split at h
  · next hlt => exact Binary64.finite.inj h ▸ hlt
  · cases h

theorem mul_finite_lt {x y : Binary64} {units : Nat} (h : x.mul y = .finite units) : units < 2 ^ (1024 + 1074) := by
  cases x with
  | infinite => cases h
  | finite a =>
    cases y with
    | infinite => cases h
    | finite b => rw [Binary64.mul] at h; exact round64_finite_lt h

theorem length_classToken_le {c : ClassCode} {t : List Byte} (h : classToken c = some t) : t.length ≤ 9 := by
  cases c <;> cases h <;> decide

/-- What DECODE writes fits TOUT at every precision (R42): trailing '0's are not written, and a binary64 value has at most 1074
decimals. -/
theorem length_decodePattern_le (l : Layout) (prec : Nat) (p : Container) : (decodePattern l prec p).length ≤ 4096 := by
  rw [decodePattern]
  split
  · next t ht => exact (length_classToken_le ht).trans (by decide)
  · cases hv : patternMagnitude l p with
    | finite units => exact (length_formatFinite_le _ _ (mul_finite_lt hv)).trans (by decide)
    | infinite => exact (length_withSign_le _ _).trans (by decide)

/-! ### Legal values -/

theorem length_text (x : Container) : x.text.length = x.size := by
  rw [Container.text, List.length_map, List.length_range]

theorem length_tinText (s : State) : s.tinText.length = s.tinLen.toNat := by
  rw [State.tinText, Memory.text, List.length_map, List.length_range]

/-- A layout in LR is a valid one (R37, R211). -/
theorem layout_valid_of_inv {s : State} (h : s.Inv) (hv : s.lr.valid = true) : s.lr.layout.valid := by
  obtain ⟨-, hl, -⟩ | hr := h.lr_ok
  · exact hl
  · rw [hr] at hv; cases hv

theorem wf_encodeText {l : Layout} (h : l.valid) {t : List Byte} {p : Container} (hp : encodeText l t = .ok p) : p.wf := by
  rw [encodeText] at hp
  split at hp
  · cases hp; exact wf_construct h _
  · split at hp
    · cases hp; exact wf_construct h _
    · split at hp
      · cases hp
      · cases hp; exact wf_encodeDecimal h _ _

theorem encodeText_error {l : Layout} {t : List Byte} {e : ErrorCode} (h : encodeText l t = .error e) : e ≠ .ok := by
  rw [encodeText] at h
  split at h
  · cases h
  · split at h
    · cases h
    · split at h
      · cases h; exact nofun
      · cases h

theorem parsePattern_error {w : Nat} {t : List Byte} {e : ErrorCode} (h : parsePattern w t = .error e) : e ≠ .ok := by
  rw [parsePattern] at h
  split at h
  · cases h; exact nofun
  · split at h
    · cases h; exact nofun
    · cases h

/-- LR loaded with a valid record holds that record: its fields fit theirs (R37). -/
theorem layout_load {l : Layout} (h : l.valid) (hb : l.bias < 2 ^ 32) (src : Nat) : (LayoutReg.load l src).layout = l := by
  obtain ⟨hs, he, hm, hw, -⟩ := h
  obtain ⟨sw, ew, mw, bias⟩ := l
  simp only [LayoutReg.layout, LayoutReg.load, BitVec.toNat_ofNat, Layout.mk.injEq, Config.cap] at *
  refine ⟨?_, Nat.mod_eq_of_lt (by omega), Nat.mod_eq_of_lt (by omega), Nat.mod_eq_of_lt hb⟩
  rcases hs with rfl | rfl <;> rfl

theorem ok_load {l : Layout} {src : Nat} (h : l.valid) (hb : l.bias < 2 ^ 32)
    (hsrc : src = 0xF ∨ src < 16 ∧ layoutRom[src]? = some l) : (LayoutReg.load l src).ok := by
  refine .inl ⟨rfl, by rwa [layout_load h hb], ?_⟩
  rw [layout_load h hb]
  refine hsrc.imp (fun h15 => by rw [h15]; rfl) fun ⟨hlt, hrom⟩ => ?_
  have hmod : (LayoutReg.load l src).src.toNat = src := Nat.mod_eq_of_lt hlt
  rw [hmod, hrom]

theorem rom_valid : ∀ l ∈ layoutRom, l.valid ∧ l.bias < 2 ^ 32 := by decide

theorem ok_load_rom {idx : Nat} {l : Layout} (h : layoutRom[idx]? = some l) : (LayoutReg.load l idx).ok := by
  obtain ⟨hlt, hget⟩ := List.getElem?_eq_some_iff.1 h
  obtain ⟨hv, hb⟩ := rom_valid l (hget ▸ List.getElem_mem hlt)
  exact ok_load hv hb (.inr ⟨Nat.lt_trans hlt (by decide), h⟩)

/-! ### How a command ends -/

/-- What the command `i`, started in `s`, can write when it succeeds. -/
inductive CommandWrites (i : Instr) (s : State) : State → Prop where
  | container {cd : CReg} {v : Container} (hcd : i.destination = some cd) (hv : s.Inv → v.wf) :
      CommandWrites i s (s.setC cd v)
  | bool {b : Bool} (hi : i.writesBool = true) : CommandWrites i s (s.setBool b)
  | text {x : List Byte} (hi : i.writesTout = true) (hx : s.Inv → x.length ≤ 4096) : CommandWrites i s (s.putTout x)
  | layout {r : LayoutReg} (hi : i.writesLayout = true) (hr : r.ok) : CommandWrites i s { s with lr := r }
  | classCode {k : ClassCode} (hi : i.writesClass = true) : CommandWrites i s (s.setClass k)
  | nanPayload {k : ClassCode} {cd : CReg} {v : Container} (hi : i.writesClass = true) (hcd : i.destination = some cd)
      (hv : s.Inv → v.wf) : CommandWrites i s ((s.setClass k).setC cd v)
  | pattern {cd : CReg} {p : Container} (hi : i.writesTout = true) (hcd : i.destination = some cd) (hp : s.Inv → p.wf) :
      CommandWrites i s ((s.setC cd p).putTout p.text)

/-- How the command `i`, started in `s`, can end: with its writes, or with an error that is not OK (R352). -/
inductive CommandEnds (i : Instr) (s : State) : Host.Outcome State Fault Refusal → Prop where
  | success {u : State} (hu : CommandWrites i s u) : CommandEnds i s (.next (completeOk u))
  | failure {e : ErrorCode} (he : e ≠ .ok) : CommandEnds i s (.next (raiseError e s))

section Ends

variable {i : Instr} {s : State}

theorem sizedWrite_ends {cd : CReg} {n : Nat} {v : Container} (hcd : i.destination = some cd)
    (hv : s.Inv → n ≤ 256 → v.wf) : CommandEnds i s (settle s (sizedWrite s cd n v)) := by
  obtain ⟨hn, h⟩ | ⟨-, h⟩ := sizedWrite_cases s cd n v
  · rw [h]; exact .success (.container hcd fun hs => hv hs hn)
  · rw [h]; exact .failure nofun

theorem ranged_ends {lo hi : Nat} {t : State} (ht : hi ≤ 256 → CommandWrites i s t) :
    CommandEnds i s (settle s (ranged lo hi t)) := by
  obtain ⟨hhi, -, h⟩ | ⟨-, h⟩ | ⟨-, -, h⟩ := ranged_cases lo hi t
  · rw [h]; exact .success (ht hhi)
  · rw [h]; exact .failure nofun
  · rw [h]; exact .failure nofun

theorem constructTo_ends {cd : CReg} {v : SpecialValue} (hcd : i.destination = some cd) :
    CommandEnds i s (settle s (constructTo s cd v)) := by
  obtain ⟨hv, h⟩ | ⟨-, h⟩ := constructTo_cases s cd v
  · rw [h]; exact .success (.container hcd fun hs => wf_construct (layout_valid_of_inv hs hv) _)
  · rw [h]; exact .failure nofun

end Ends

theorem execSet_ends (cd : CReg) (n : Nat) (p : Bool) (s : State) : CommandEnds (.set cd n p) s (execSet cd n p s) := by
  rw [execSet]
  split
  · exact .failure nofun
  · next h => exact .success (.container rfl fun hs => wf_withBit (hs.regs_wf cd) (Nat.lt_of_not_le h) p)

theorem execParse_ends (cd : CReg) (s : State) : CommandEnds (.parse cd) s (execParse cd s) := by
  rw [execParse]
  split
  · exact .failure nofun
  · next hlen =>
    split
    · exact .failure nofun
    · exact .success (.container rfl fun _ => wf_parseBits (by rw [length_tinText]; exact Nat.le_of_not_lt hlen))

theorem execParseN_ends (cd : CReg) (n : Nat) (s : State) : CommandEnds (.parseN cd n) s (execParseN cd n s) := by
  rw [execParseN]
  split
  · exact .failure nofun
  · next hcap =>
    split
    · exact .failure nofun
    · next hlen =>
      split
      · exact .failure nofun
      · refine .success (.container rfl fun _ => wf_parseBits ?_)
        rw [length_tinText, not_not.1 hlen]
        exact Nat.le_of_not_lt hcap

theorem execLsel_ends (idx : Nat) (s : State) : CommandEnds (.lsel idx) s (execLsel idx s) := by
  rw [execLsel]
  cases h : layoutRom[idx]? with
  | none => exact .failure nofun
  | some l => exact .success (.layout rfl (ok_load_rom h))

theorem execLset_ends (sw : Bool) (ew mw : Nat) (s : State) : CommandEnds (.lset sw ew mw) s (execLset sw ew mw s) := by
  rw [execLset]
  split
  · next h => exact .success (.layout rfl (ok_load h s.din0.isLt (.inl rfl)))
  · exact .failure nofun

theorem execClassify_ends (cd ca : CReg) (s : State) : CommandEnds (.classify cd ca) s (execClassify cd ca s) := by
  rw [execClassify]
  cases hl : s.lr.valid with
  | false => rw [layoutOr_invalid hl]; exact .failure nofun
  | true =>
    rw [layoutOr_valid hl]
    simp only [putClass]
    split_ifs
    · exact .failure nofun
    · refine .success (.nanPayload rfl rfl fun hs => wf_sub _ ?_)
      obtain ⟨-, -, -, hw, -⟩ := layout_valid_of_inv hs hl
      exact (Nat.sub_le _ 1).trans ((Nat.le_add_left _ _).trans hw)
    · exact .success (.classCode rfl)

theorem execEncode_ends (cd : CReg) (s : State) : CommandEnds (.encode cd) s (execEncode cd s) := by
  rw [execEncode]
  cases hl : s.lr.valid with
  | false => rw [layoutOr_invalid hl]; exact .failure nofun
  | true =>
    rw [layoutOr_valid hl]
    dsimp only
    cases hp : encodeText s.lr.layout s.tinText with
    | error e => exact .failure (encodeText_error hp)
    | ok p => exact .success (.pattern rfl rfl fun hs => wf_encodeText (layout_valid_of_inv hs hl) hp)

theorem execDecode_ends (s : State) : CommandEnds .decode s (execDecode s) := by
  rw [execDecode]
  cases hl : s.lr.valid with
  | false => rw [layoutOr_invalid hl]; exact .failure nofun
  | true =>
    rw [layoutOr_valid hl]
    simp only [decodeText]
    cases hp : parsePattern s.lr.layout.width s.tinText with
    | error e => exact .failure (parsePattern_error hp)
    | ok p => exact .success (.text rfl fun _ => length_decodePattern_le _ _ _)

/-- Every command ends in one of the ways of `CommandEnds`. -/
theorem exec_ends (i : Instr) (s : State) : CommandEnds i s (exec i s) := by
  cases i with
  | all0 cd n => exact sizedWrite_ends rfl fun _ => wf_zeros
  | all1 cd n => exact sizedWrite_ends rfl fun _ => wf_onesC
  | fromu8 cd n | fromu16 cd n | fromu32 cd n | fromu64 cd n | fromu128 cd n =>
    exact sizedWrite_ends rfl fun _ => wf_fld _
  | get ca n => exact .success (.bool rfl)
  | set cd n p => exact execSet_ends cd n p s
  | concat cd ca cb => exact sizedWrite_ends rfl fun hs => wf_cat (hs.regs_wf ca) (hs.regs_wf cb)
  | resizeLo cd ca n => exact sizedWrite_ends rfl fun hs => wf_rsLow (hs.regs_wf ca)
  | resizeHi cd ca n => exact sizedWrite_ends rfl fun _ => wf_rsHigh _
  | getsub cd ca lo hi => exact ranged_ends fun hhi => .container rfl fun _ => wf_sub _ hhi
  | range0 ca lo hi | range1 ca lo hi => exact ranged_ends fun _ => .bool rfl
  | parse cd => exact execParse_ends cd s
  | parseN cd n => exact execParseN_ends cd n s
  | render ca =>
    exact .success (.text rfl fun hs => by rw [length_text]; exact (hs.regs_wf ca).1.trans (by decide))
  | lsel idx => exact execLsel_ends idx s
  | lset sw ew mw => exact execLset_ends sw ew mw s
  | constructZero cd | constructInf cd | constructNan cd | constructSpsub cd | constructLsub cd | constructSpnorm cd
  | constructLnorm cd | constructLlt1 cd | constructOne cd | constructSgt1 cd => exact constructTo_ends rfl
  | classify cd ca => exact execClassify_ends cd ca s
  | encode cd => exact execEncode_ends cd s
  | decode => exact execDecode_ends s

end Sys2Proof.Proofs
end

section
/-! What commands leave unchanged (R35, R37, R41 to R49). -/

namespace Sys2Proof.Proofs

open Sys2Proof Sys2Proof.Machine Sys2Proof.Claims Sys2Proof.Laws

/-! ### Frames of commands -/

/-- A command that answers `t` has either succeeded with its writes or failed with an error and no write (R352). -/
theorem exec_cases {i : Instr} {s t : State} (h : exec i s = .next t) :
    (∃ u, CommandWrites i s u ∧ t = completeOk u) ∨ ∃ e, e ≠ .ok ∧ t = raiseError e s := by
  have hends := exec_ends i s
  rw [h] at hends
  cases hends with
  | success hu => exact .inl ⟨_, hu, rfl⟩
  | failure he => exact .inr ⟨_, he, rfl⟩

section Writes

variable {i : Instr} {s u : State} (h : CommandWrites i s u)
include h

theorem getC_of_commandWrites {k : CReg} (hk : i.destination ≠ some k) : u.getC k = s.getC k := by
  have hne {cd : CReg} (hcd : i.destination = some cd) : k ≠ cd := fun heq => hk (heq ▸ hcd)
  cases h with
  | container hcd _ => exact getC_setC_other s _ (hne hcd)
  | nanPayload _ hcd _ => exact getC_setC_other (s.setClass _) _ (hne hcd)
  | pattern _ hcd _ => exact getC_setC_other s _ (hne hcd)
  | bool _ | text _ _ | layout _ _ | classCode _ => rfl

theorem lr_of_commandWrites (hi : i.writesLayout = false) : u.lr = s.lr := by
  cases h with
  | layout hw _ => rw [hi] at hw; cases hw
  | container _ _ | bool _ | text _ _ | classCode _ | nanPayload _ _ _ | pattern _ _ _ => rfl

theorem sameTout_of_commandWrites (hi : i.writesTout = false) : SameTout s u := by
  cases h with
  | text hw _ | pattern hw _ _ => rw [hi] at hw; cases hw
  | container _ _ | bool _ | layout _ _ | classCode _ | nanPayload _ _ _ => exact ⟨fun _ => rfl, rfl⟩

theorem unwritten_of_commandWrites : Unwritten s u := by
  cases h <;> simp [Unwritten]

theorem resultBool_of_commandWrites (hi : i.writesBool = false) : u.resultBool = s.resultBool := by
  cases h with
  | bool hw => rw [hi] at hw; cases hw
  | container _ _ | text _ _ | layout _ _ | classCode _ | nanPayload _ _ _ | pattern _ _ _ => rfl

theorem resultClass_of_commandWrites (hi : i.writesClass = false) : u.resultClass = s.resultClass := by
  cases h with
  | classCode hw | nanPayload hw _ _ => rw [hi] at hw; cases hw
  | container _ _ | bool _ | text _ _ | layout _ _ | pattern _ _ _ => rfl

end Writes

/-- Settles O41: on success only the destination is written, on failure no register. -/
theorem onlyTheDestinationRegisterChanges : Obligations.OnlyTheDestinationRegisterChanges := by
  intro i s t h k hk
  obtain ⟨u, hu, rfl⟩ | ⟨e, -, rfl⟩ := exec_cases h
  · rw [getC_completeOk, getC_of_commandWrites hu hk]
  · rw [getC_raiseError]

/-- Settles O42: what a successful command writes is known, and a failed one writes STATUS alone. -/
theorem onlyNamedCommandsWriteLayoutAndBuffers : Obligations.OnlyNamedCommandsWriteLayoutAndBuffers := by
  intro i s t h
  obtain ⟨u, hu, rfl⟩ | ⟨e, -, rfl⟩ := exec_cases h
  · exact ⟨lr_of_commandWrites (u := u) hu, sameTout_of_commandWrites (u := u) hu, unwritten_of_commandWrites (u := u) hu⟩
  · exact ⟨fun _ => rfl, fun _ => ⟨fun _ => rfl, rfl⟩, by simp [Unwritten]⟩

/-- Settles O43: a command that ends with ERR other than OK is one that raised an error. -/
theorem onlyNamedCommandsWriteResult : Obligations.OnlyNamedCommandsWriteResult := by
  intro i s t h
  obtain ⟨u, hu, rfl⟩ | ⟨e, -, rfl⟩ := exec_cases h
  · have hok : ¬(completeOk u).err ≠ .ok := not_not.2 rfl
    exact ⟨fun hi => resultBool_of_commandWrites (u := u) hu (hi.resolve_right hok),
      fun hi => resultClass_of_commandWrites (u := u) hu (hi.resolve_right hok)⟩
  · exact ⟨fun _ => rfl, fun _ => rfl⟩

end Sys2Proof.Proofs
end

section
/-! The register window (R41 to R50, R72 to R78): what a legal access of an offset reads and writes. -/

namespace Sys2Proof.Proofs

open Sys2Proof Sys2Proof.Machine Sys2Proof.Claims Sys2Proof.Laws

/-! ### Legal accesses -/

theorem legalAccess_of_aligned {off : BitVec 14} (h : off.toNat % 4 = 0) : legalAccess off 4 = true := by
  simp [legalAccess, h]

theorem aligned_of_legalAccess {off : BitVec 14} {bytes : Nat} (h : legalAccess off bytes = true) : off.toNat % 4 = 0 := by
  simp only [legalAccess, Bool.and_eq_true, beq_iff_eq] at h
  exact h.2

theorem isBusy_of_idle {s : State} (h : s.engine = .idle) : s.isBusy = false := by
  rw [State.isBusy, h]

/-- A legal read answers the register's value, unless the register is a result and the engine is busy (R76, R386). -/
theorem hostRead_response {s : State} {off : BitVec 14} (hr : s.resetLine = false) (hoff : off.toNat % 4 = 0)
    (hbusy : (s.isBusy && (windowRegAt off.toNat).isResult) = false) :
    (hostRead s off 4).response = some (.data (readReg s (windowRegAt off.toNat))) := by
  simp [hostRead, legalAccess_of_aligned hoff, hr, hbusy]

/-- A legal write reaches its register, unless the register is an operand and the engine is busy (R75, R385). -/
theorem hostWrite_eq {s : State} {off : BitVec 14} (v : Word) (hr : s.resetLine = false) (hoff : off.toNat % 4 = 0)
    (hbusy : (s.isBusy && (windowRegAt off.toNat).isOperand) = false) :
    hostWrite s off 4 v = (writeReg s (windowRegAt off.toNat) v).respond .done := by
  simp [hostWrite, legalAccess_of_aligned hoff, hr, hbusy]

theorem sameBlock_respond (s : State) (r : BusResponse) : SameBlock s (s.respond r) := by simp [SameBlock]

section Idle

variable {s : State} (hidle : s.engine = .idle) (hr : s.resetLine = false)
include hidle hr

theorem hostRead_response_of_idle {off : BitVec 14} (hoff : off.toNat % 4 = 0) :
    (hostRead s off 4).response = some (.data (readReg s (windowRegAt off.toNat))) :=
  hostRead_response hr hoff (by rw [isBusy_of_idle hidle, Bool.false_and])

theorem hostWrite_of_idle {off : BitVec 14} (v : Word) (hoff : off.toNat % 4 = 0) :
    hostWrite s off 4 v = (writeReg s (windowRegAt off.toNat) v).respond .done :=
  hostWrite_eq v hr hoff (by rw [isBusy_of_idle hidle, Bool.false_and])

theorem step_of_idle {e : HostEvent} {rest : List HostEvent} (hp : s.pending = e :: rest) :
    step s = .next (performEvent e { s with pending := rest }) := by
  simp only [step, machineStep, hr, hidle, hostStep, hp, Bool.false_eq_true, if_false]

theorem shows_of_idle {off : BitVec 14} {n : Nat} (hoff : off.toNat % 4 = 0)
    (hn : (readReg s (windowRegAt off.toNat)).toNat = n) : Shows s off n :=
  ⟨_, hostRead_response_of_idle hidle hr hoff, hn⟩

theorem sameBlock_hostWrite_of_idle {off : BitVec 14} {v : Word} (hoff : off.toNat % 4 = 0) :
    SameBlock (writeReg s (windowRegAt off.toNat) v) (hostWrite s off 4 v) := by
  rw [hostWrite_of_idle hidle hr v hoff]
  exact sameBlock_respond _ _

end Idle

/-! ### Offsets -/

/-- Only the offsets of TIN name bytes of TIN. -/
theorem offset_of_tin {off i : Nat} (h : windowRegAt off = .tin i) : off < 0x2000 ∧ i = off - 0x1000 := by
  rw [windowRegAt] at h
  split at h
  · unfold controlRegAt at h; split at h <;> cases h
  · split at h
    · rw [containerRegAt] at h; split_ifs at h
    · split_ifs at h with _ hlt
      exact ⟨hlt, (WindowReg.tin.inj h).symm⟩

/-- ID, CAPS and RESULT have one offset each. -/
theorem offset_of_constant (off : Nat) : (windowRegAt off = .id → off = 0x00) ∧ (windowRegAt off = .caps → off = 0x04) ∧
    (windowRegAt off = .result → off = 0x10) := by
  rw [windowRegAt]
  split
  · unfold controlRegAt; split <;> simp
  · rw [containerRegAt]; split_ifs <;> simp

theorem tin_index_lt {off i : Nat} (hoff : off % 4 = 0) (h : windowRegAt off = .tin i) : i + 3 < 4096 := by
  obtain ⟨hlt, hi⟩ := offset_of_tin h
  omega

theorem tinLenOf_toNat (v : Word) : (tinLenOf v).toNat = min (v.toNat % 2 ^ 13) 4096 := by
  rw [tinLenOf, BitVec.extractLsb'_toNat, Nat.shiftRight_zero, BitVec.toNat_ofNat]
  exact Nat.mod_eq_of_lt (Nat.lt_of_le_of_lt (Nat.min_le_right _ _) (by decide))

theorem tinLenOf_le (v : Word) : (tinLenOf v).toNat ≤ 4096 := tinLenOf_toNat v ▸ Nat.min_le_right _ _

/-- The container view: offset r of the view of the register with index k. -/
theorem windowRegAt_container {k r : Nat} (hk : k < 8) (hr : r < 0x40) :
    windowRegAt (0x100 + 0x40 * k + r) = containerRegAt k r := by
  have hdiv : (0x100 + 0x40 * k + r - 0x100) / 0x40 = k := by omega
  have hmod : (0x100 + 0x40 * k + r - 0x100) % 0x40 = r := by omega
  rw [windowRegAt, if_neg (by omega), if_pos (by omega), hdiv, hmod]

theorem containerRegAt_word (k : Nat) {j : Nat} (hj : j < 8) : containerRegAt k (4 + 4 * j) = .cword (cregOfIndex k) j := by
  have hindex : (4 + 4 * j - 4) / 4 = j := by omega
  rw [containerRegAt, if_neg (by omega), if_pos (by omega), hindex]

theorem indexOf_lt (k : CReg) : indexOf k < 8 := by cases k <;> decide

theorem cregOfIndex_indexOf (k : CReg) : cregOfIndex (indexOf k) = k := by cases k <;> rfl

/-- The container view is read-only (R50, R75). -/
theorem writeReg_containerRegAt (s : State) (k r : Nat) (v : Word) : writeReg s (containerRegAt k r) v = s := by
  rw [containerRegAt]
  split_ifs <;> rfl

/-! ### Values of registers -/

/-- A sub-range of a legal container is the quotient and remainder of its number. -/
theorem bits_sub {x : Container} (hx : x.wf) (lo hi : Nat) : (sub x lo hi).bits = x.bits / 2 ^ lo % 2 ^ (hi - lo) := by
  refine Nat.eq_of_testBit_eq fun i => ?_
  rw [sub, testBit_bitSum, bit_eq_testBit hx, Nat.testBit_mod_two_pow, Nat.testBit_div_two_pow, Nat.add_comm]

theorem storageWord_toNat {x : Container} (hx : x.wf) (j : Nat) :
    (storageWord x j).toNat = x.bits / 2 ^ (32 * j) % 2 ^ 32 := by
  rw [storageWord, bits_sub hx, Nat.add_sub_cancel_left, BitVec.toNat_ofNat, Nat.mod_mod]

theorem statusWord_toNat (s : State) :
    (statusWord s).toNat = s.isBusy.toNat + s.errs.toNat * 2 + s.ovr.toNat * 4 + s.err.code * 2 ^ 8 := by
  have hbusy := s.isBusy.toNat_lt
  have herrs := s.errs.toNat_lt
  have hovr := s.ovr.toNat_lt
  have hcode : s.err.code < 8 := by cases s.err <;> decide
  exact Nat.mod_eq_of_lt (by omega)

theorem isBusy_toNat (s : State) : s.isBusy.toNat = if s.engine = .idle then 0 else 1 := by
  rw [State.isBusy]
  cases s.engine with
  | idle => rfl
  | busy w => rfl

theorem statusWord_getLsbD_zero (s : State) : (statusWord s).getLsbD 0 = s.isBusy := by
  have hlow : (statusWord s).toNat % 2 = s.isBusy.toNat := by
    have hbusy := s.isBusy.toNat_lt
    rw [statusWord_toNat]
    omega
  rw [← BitVec.testBit_toNat, Nat.testBit_zero, hlow]
  cases s.isBusy <;> rfl

/-- The fields of LCFG (R37). -/
theorem lcfgWord_getLsbD (r : LayoutReg) (j : Nat) :
    (lcfgWord r).getLsbD j =
      if j < 9 then r.ew.getLsbD j else if j < 18 then r.mw.getLsbD (j - 9) else if j = 18 then r.sw
      else if j = 19 then r.valid else if j < 24 then r.src.getLsbD (j - 20) else false := by
  have hnest : r.ew.toNat + r.mw.toNat * 2 ^ 9 + r.sw.toNat * 2 ^ 18 + r.valid.toNat * 2 ^ 19 + r.src.toNat * 2 ^ 20 =
      2 ^ 9 * (2 ^ 9 * (2 ^ 1 * (2 ^ 1 * r.src.toNat + r.valid.toNat) + r.sw.toNat) + r.mw.toNat) + r.ew.toNat := by ring
  rw [lcfgWord, hnest, BitVec.getLsbD_ofNat, Nat.testBit_two_pow_mul_add _ r.ew.isLt, Nat.testBit_two_pow_mul_add _ r.mw.isLt,
    Nat.testBit_two_pow_mul_add _ r.sw.toNat_lt, Nat.testBit_two_pow_mul_add _ r.valid.toNat_lt]
  simp only [BitVec.testBit_toNat, Nat.testBit_bool_toNat, Nat.sub_sub]
  have hsrc (hj : 24 ≤ j) : r.src.getLsbD (j - 20) = false := BitVec.getLsbD_of_ge _ _ (by omega)
  grind

theorem rangeWord_toNat {lo hi : Nat} (hlo : lo ≤ 256) (hhi : hi ≤ 256) : (rangeWord lo hi).toNat = lo + hi * 2 ^ 16 :=
  Nat.mod_eq_of_lt (by omega)

theorem whenValid_of_valid {r : LayoutReg} (h : r.valid = true) (w : Word) : whenValid r w = w := if_pos h

theorem whenValid_of_invalid {r : LayoutReg} (h : r.valid = false) (w : Word) : whenValid r w = 0 := by
  rw [whenValid, h]; rfl

section DerivedLayout

variable {r : LayoutReg} (hv : r.valid = true) (hw : r.sw.toNat + r.ew.toNat + r.mw.toNat ≤ 256)
include hv hw

/-! The derived registers of a layout whose width is legal (R38, R207). -/

theorem lwidthWord_toNat : (lwidthWord r).toNat = r.sw.toNat + r.ew.toNat + r.mw.toNat := by
  rw [lwidthWord, whenValid_of_valid hv]
  exact Nat.mod_eq_of_lt (Nat.lt_of_le_of_lt hw (by decide))

theorem lsignWord_toNat :
    (lsignWord r).toNat = if r.sw.toNat = 1 then r.sw.toNat + r.ew.toNat + r.mw.toNat - 1 + 2 ^ 31 else 0 := by
  rw [lsignWord, whenValid_of_valid hv]
  cases hs : r.sw with
  | false => rfl
  | true =>
    rw [hs] at hw
    have hwidth : r.layout.width = true.toNat + r.ew.toNat + r.mw.toNat := by rw [← hs]; rfl
    rw [if_pos Bool.toNat_true, if_pos rfl, hwidth, BitVec.toNat_ofNat]
    exact Nat.mod_eq_of_lt (by omega)

theorem lexpWord_toNat : (lexpWord r).toNat = r.mw.toNat + (r.mw.toNat + r.ew.toNat) * 2 ^ 16 := by
  rw [lexpWord, whenValid_of_valid hv]
  exact rangeWord_toNat (lo := r.mw.toNat) (hi := r.mw.toNat + r.ew.toNat) (by omega) (by omega)

theorem lmanWord_toNat : (lmanWord r).toNat = r.mw.toNat * 2 ^ 16 := by
  rw [lmanWord, whenValid_of_valid hv, ← Nat.zero_add (_ * _)]
  exact rangeWord_toNat (hi := r.mw.toNat) (by omega) (by omega)

theorem lcsignWord_toNat : (lcsignWord r).toNat = r.sw.toNat * 2 ^ 16 := by
  rw [lcsignWord, whenValid_of_valid hv, ← Nat.zero_add (_ * _)]
  exact rangeWord_toNat (hi := r.sw.toNat) (by omega) (by omega)

theorem lcexpWord_toNat : (lcexpWord r).toNat = r.sw.toNat + (r.sw.toNat + r.ew.toNat) * 2 ^ 16 := by
  rw [lcexpWord, whenValid_of_valid hv]
  exact rangeWord_toNat (lo := r.sw.toNat) (hi := r.sw.toNat + r.ew.toNat) (by omega) (by omega)

theorem lcmanWord_toNat :
    (lcmanWord r).toNat = (r.sw.toNat + r.ew.toNat) + (r.sw.toNat + r.ew.toNat + r.mw.toNat) * 2 ^ 16 := by
  rw [lcmanWord, whenValid_of_valid hv]
  exact rangeWord_toNat (lo := r.sw.toNat + r.ew.toNat) (hi := r.sw.toNat + r.ew.toNat + r.mw.toNat) (by omega) hw

end DerivedLayout

/-- After reset every register but ID, CAPS and RESULT reads 0 (R52). -/
theorem readReg_reset {r : WindowReg} (hid : r ≠ .id) (hcaps : r ≠ .caps) (hresult : r ≠ .result) :
    readReg State.reset r = 0 := by
  have hempty (k : CReg) : State.reset.getC k = .empty := by cases k <;> rfl
  cases r with
  | id => exact absurd rfl hid
  | caps => exact absurd rfl hcaps
  | result => exact absurd rfl hresult
  | csize k => rw [readReg, hempty]; rfl
  | cword k j =>
    rw [readReg, hempty]
    refine BitVec.eq_of_toNat_eq ?_
    rw [storageWord_toNat wf_empty, Container.empty, Nat.zero_div]
    rfl
  | tin i | tout i => exact show (0 : Byte) ++ (0 : Byte) ++ (0 : Byte) ++ (0 : Byte) = (0 : Word) by decide
  | _ => rfl

/-! ### Statements about the window -/

/-- Settles O23: each register's word is the number of its fields, which fit since a valid layout is at most 256 bits wide. -/
theorem layoutRegistersShowLayout : Obligations.LayoutRegistersShowLayout := by
  intro s h hidle hr
  refine ⟨⟨_, hostRead_response_of_idle hidle hr rfl, lcfgWord_getLsbD s.lr⟩,
    shows_of_idle hidle hr rfl rfl, ?_, ?_⟩
  · rintro hv sw ew mw rfl rfl rfl
    obtain ⟨-, -, -, hw, -⟩ := layout_valid_of_inv h hv
    exact ⟨shows_of_idle hidle hr rfl (lwidthWord_toNat hv hw), shows_of_idle hidle hr rfl (lsignWord_toNat hv hw),
      shows_of_idle hidle hr rfl (lexpWord_toNat hv hw), shows_of_idle hidle hr rfl (lmanWord_toNat hv hw),
      shows_of_idle hidle hr rfl (lcsignWord_toNat hv hw), shows_of_idle hidle hr rfl (lcexpWord_toNat hv hw),
      shows_of_idle hidle hr rfl (lcmanWord_toNat hv hw)⟩
  · intro hv off hoff
    simp only [List.mem_cons, List.not_mem_nil, or_false] at hoff
    rcases hoff with rfl | rfl | rfl | rfl | rfl | rfl | rfl <;>
      exact shows_of_idle hidle hr rfl (congrArg BitVec.toNat (whenValid_of_invalid hv _))

/-- Settles O52: each offset names its register, and a write that reaches it stores its field. -/
theorem operandWritesStoreTheirFields : Obligations.OperandWritesStoreTheirFields := by
  intro s v hidle hr
  refine ⟨sameBlock_hostWrite_of_idle hidle hr rfl, sameBlock_hostWrite_of_idle hidle hr rfl,
    sameBlock_hostWrite_of_idle hidle hr rfl, sameBlock_hostWrite_of_idle hidle hr rfl,
    ⟨v.setWidth 12, sameBlock_hostWrite_of_idle hidle hr rfl, BitVec.toNat_setWidth 12 v⟩,
    ⟨tinLenOf v, sameBlock_hostWrite_of_idle hidle hr rfl, tinLenOf_toNat v⟩⟩

/-- Settles O54. STATUS is neither a result nor an operand, so a busy engine does not stand in the way. -/
theorem statusBitsAndClearing : Obligations.StatusBitsAndClearing := by
  intro s v hr
  refine ⟨fun e c hmem he => ⟨_, hostRead_response hr rfl (Bool.and_false _), ?_⟩, ?_⟩
  · have hcode : s.err.code = c := by
      have htable : ∀ p ∈ [(ErrorCode.ok, 0), (.illegal, 1), (.layout, 2), (.capacity, 3), (.range, 4), (.length, 5),
        (.bits, 6), (.text, 7)], p.1.code = p.2 := by decide
      rw [he]; exact htable _ hmem
    change (statusWord s).toNat = _
    rw [statusWord_toNat, isBusy_toNat, hcode]
    omega
  · rw [hostWrite_eq v hr rfl (Bool.and_false _)]
    exact sameBlock_respond _ _

/-- Settles O58: offset r of the view of c[k] is CSIZE or a storage word, and no write reaches either. -/
theorem containerWindowShowsRegisters : Obligations.ContainerWindowShowsRegisters := by
  intro s k h hidle hr
  refine ⟨fun off hoff => shows_of_idle hidle hr (by omega) ?_, fun j off hj hoff => shows_of_idle hidle hr (by omega) ?_,
    fun j off v hj hoff => ?_⟩
  · have hreg : windowRegAt off.toNat = .csize k := by
      rw [hoff, ← Nat.add_zero (_ + _), windowRegAt_container (indexOf_lt k) (by decide)]
      exact congrArg _ (cregOfIndex_indexOf k)
    rw [hreg]
    exact Nat.mod_eq_of_lt (Nat.lt_of_le_of_lt (h.regs_wf k).1 (by decide))
  · have hreg : windowRegAt off.toNat = .cword k j := by
      rw [hoff, show 0x104 + 0x40 * indexOf k + 4 * j = 0x100 + 0x40 * indexOf k + (4 + 4 * j) by omega,
        windowRegAt_container (indexOf_lt k) (by omega), containerRegAt_word _ hj, cregOfIndex_indexOf]
    rw [hreg]
    exact storageWord_toNat (h.regs_wf k) j
  · have hwrite := sameBlock_hostWrite_of_idle hidle hr (off := off) (v := v) (by omega)
    rwa [hoff, windowRegAt_container (indexOf_lt k) (by omega), writeReg_containerRegAt] at hwrite

/-- Settles O7: at its instant a busy engine runs the command its word decodes to. -/
theorem stepPerformsDecodedCommand : Obligations.StepPerformsDecodedCommand := by
  intro s w i hbusy hr hinstant hw
  have hreached : instantReached s = true := by
    obtain h | h := hinstant <;> simp [instantReached, h]
  simp only [step, machineStep, hr, hbusy, hreached, runCommand, hw, if_true, Bool.false_eq_true, if_false]

/-- Settles O50: the step of an idle engine is the host's CMD write, which starts the command. -/
theorem cmdWriteStartsCommand : Obligations.CmdWriteStartsCommand := by
  intro s w rest hidle hr hpending
  have hstep : step s = .next ((startCommand { s with pending := rest } w).respond .done) :=
    (step_of_idle hidle hr hpending).trans (congrArg _ (hostWrite_of_idle (s := { s with pending := rest }) hidle hr w rfl))
  exact ⟨_, hstep, rfl, statusWord_getLsbD_zero _, rfl, rfl, by simp [SameBlock]⟩

/-- Settles O46: reset leaves 0 in every register but the three whose offsets are named. -/
theorem resetValuesInTheWindow : Obligations.ResetValuesInTheWindow := by
  refine ⟨rfl, fun off hoff => ?_⟩
  rw [hostRead_response rfl hoff rfl]
  generalize off.toNat = n
  obtain ⟨hid, hcaps, hresult⟩ := offset_of_constant n
  split_ifs with h0 h4 h10
  · rw [h0]; rfl
  · rw [h4]; rfl
  · rw [h10]; rfl
  · rw [readReg_reset (mt hid h0) (mt hcaps h4) (mt hresult h10)]

end Sys2Proof.Proofs
end

section
/-! The invariant: it holds after reset, and every step keeps it. -/

namespace Sys2Proof.Proofs

open Sys2Proof Sys2Proof.Machine Sys2Proof.Claims Sys2Proof.Laws

/-! ### The invariant along commands -/

/-- Settles O47: LR is as reset leaves it, every container and buffer is empty. -/
theorem resetSatisfiesInvariant : Obligations.ResetSatisfiesInvariant where
  regs_wf k := by cases k <;> exact wf_empty
  lr_ok := .inr rfl
  tin_wf := reset_memory_wf.1
  tinLen_le := by decide
  tout_wf := reset_memory_wf.2
  toutLen_le := by decide
  tout_tail _ _ := rfl
  reset_held := nofun

/-- The bus's answer, the host's future and the counter of free values are no part of the invariant. -/
theorem inv_of_outside {s : State} (h : s.Inv) (draws : Nat) (pending : List HostEvent) (response : Option BusResponse) :
    { s with draws := draws, pending := pending, response := response }.Inv :=
  { h with
    reset_held := fun hr =>
      congrArg (fun u : State => { u with draws := draws, pending := pending, response := response }) (h.reset_held hr) }

theorem inv_respond {s : State} (h : s.Inv) (r : BusResponse) : (s.respond r).Inv := inv_of_outside h _ _ _

/-- While reset is not asserted, the last clause of the invariant asks nothing. -/
theorem of_held_of_released {s : State} (hr : s.resetLine = false) {P : Prop} (hheld : s.resetLine = true) : P :=
  Bool.noConfusion (hr.symm.trans hheld)

section Released

variable {s : State} (h : s.Inv) (hr : s.resetLine = false)
include h hr

theorem inv_setC (k : CReg) {v : Container} (hv : v.wf) : (s.setC k v).Inv :=
  { h with
    regs_wf := fun j => by
      by_cases hj : j = k
      · rw [hj, getC_setC_same]; exact hv
      · rw [getC_setC_other s v hj]; exact h.regs_wf j
    reset_held := of_held_of_released hr }

theorem inv_putTout {x : List Byte} (hx : x.length ≤ 4096) : (s.putTout x).Inv := by
  have hlen : (s.putTout x).toutLen.toNat = x.length := Nat.mod_eq_of_lt (Nat.lt_of_le_of_lt hx (by decide))
  exact
    { h with
      tout_wf := ofBytes_wf hx
      toutLen_le := hlen.trans_le hx
      tout_tail := fun a ha => by
        rw [hlen] at ha
        rw [putTout_tout, read_ofBytes, List.getD_eq_default _ _ ha]
      reset_held := of_held_of_released hr }

theorem inv_layout {r : LayoutReg} (hok : r.ok) : { s with lr := r }.Inv :=
  { h with lr_ok := hok, reset_held := of_held_of_released hr }

theorem inv_setBool (b : Bool) : (s.setBool b).Inv :=
  { h with reset_held := of_held_of_released hr }

theorem inv_setClass (k : ClassCode) : (s.setClass k).Inv :=
  { h with reset_held := of_held_of_released hr }

theorem inv_completeOk : (completeOk s).Inv :=
  { h with reset_held := of_held_of_released hr }

theorem inv_raiseError (e : ErrorCode) : (raiseError e s).Inv :=
  { h with reset_held := of_held_of_released hr }

theorem inv_of_commandWrites {i : Instr} {u : State} (hu : CommandWrites i s u) : u.Inv ∧ u.resetLine = false := by
  cases hu with
  | container _ hv => exact ⟨inv_setC h hr _ (hv h), hr⟩
  | bool _ => exact ⟨inv_setBool h hr _, hr⟩
  | text _ hx => exact ⟨inv_putTout h hr (hx h), hr⟩
  | layout _ hok => exact ⟨inv_layout h hr hok, hr⟩
  | classCode _ => exact ⟨inv_setClass h hr _, hr⟩
  | @nanPayload k cd v _ _ hv => exact ⟨inv_setC (inv_setClass h hr k) hr cd (hv h), hr⟩
  | @pattern cd p _ _ hp =>
    refine ⟨inv_putTout (inv_setC h hr cd (hp h)) hr ?_, hr⟩
    rw [length_text]
    exact (hp h).1.trans (by decide)

theorem exec_keeps_inv {i : Instr} {t : State} (ht : exec i s = .next t) : t.Inv := by
  obtain ⟨u, hu, rfl⟩ | ⟨e, -, rfl⟩ := exec_cases ht
  · obtain ⟨hinv, hreset⟩ := inv_of_commandWrites h hr hu
    exact inv_completeOk hinv hreset
  · exact inv_raiseError h hr e

theorem runCommand_keeps_inv {w : Word} {t : State} (ht : runCommand w s = .next t) : t.Inv := by
  rw [runCommand] at ht
  split at ht
  · exact exec_keeps_inv h hr ht
  · cases ht; exact inv_raiseError h hr _

/-! ### The invariant along host events -/

theorem inv_wait (n : Nat) : { s with wait := n }.Inv :=
  { h with reset_held := of_held_of_released hr }

theorem inv_setOverrun : s.setOverrun.Inv := { h with reset_held := of_held_of_released hr }

/-- A write that reaches its register keeps the invariant; one to TIN lies inside the buffer. -/
theorem writeReg_keeps_inv (v : Word) {r : WindowReg} (hi : ∀ i, r = .tin i → i + 3 < 4096) : (writeReg s r v).Inv := by
  cases r with
  | tin i => exact { h with tin_wf := writeBufferWord_keeps_wf v h.tin_wf (hi i rfl), reset_held := of_held_of_released hr }
  | tinLen => exact { h with tinLen_le := tinLenOf_le v, reset_held := of_held_of_released hr }
  | cmd | status | prec | din0 | din1 | din2 | din3 => exact { h with reset_held := of_held_of_released hr }
  | _ => exact h

end Released

theorem hostRead_keeps_inv {s : State} (h : s.Inv) (off : BitVec 14) (bytes : Nat) : (hostRead s off bytes).Inv := by
  rw [hostRead]
  split_ifs
  · exact inv_respond h _
  · exact inv_of_outside h _ _ _
  · exact inv_respond h _
  · exact inv_of_outside h _ _ _

theorem hostWrite_keeps_inv {s : State} (h : s.Inv) (off : BitVec 14) (bytes : Nat) (v : Word) :
    (hostWrite s off bytes v).Inv := by
  rw [hostWrite]
  split
  · exact inv_of_outside h _ _ _
  · next hlegal =>
    split
    · exact inv_respond h _
    · next hreset =>
      have hr := Bool.eq_false_iff.2 hreset
      split
      · exact inv_respond (inv_setOverrun h hr) _
      · exact inv_respond (writeReg_keeps_inv h hr v fun i => tin_index_lt (aligned_of_legalAccess (not_not.1 hlegal))) _

theorem hostPoll_keeps_inv {s : State} (h : s.Inv) : (hostPoll s).Inv := by
  rw [hostPoll]
  split_ifs
  · exact inv_respond h _
  · exact inv_of_outside h _ _ _
  · exact inv_respond h _

theorem inv_resetTo (s : State) (line : Bool) : (s.resetTo line).Inv :=
  { inv_of_outside resetSatisfiesInvariant s.draws s.pending none with reset_held := fun h => by cases h; rfl }

theorem performEvent_keeps_inv {s : State} (h : s.Inv) (e : HostEvent) : (performEvent e s).Inv := by
  cases e with
  | read off bytes => exact hostRead_keeps_inv h off bytes
  | write off bytes v => exact hostWrite_keeps_inv h off bytes v
  | poll => exact hostPoll_keeps_inv h
  | assertReset => exact inv_resetTo s true
  | releaseReset =>
    rw [performEvent]
    split
    · exact inv_resetTo s false
    · exact h

theorem hostStep_keeps_inv {s : State} (h : s.Inv) : (hostStep s).Inv := by
  rw [hostStep]
  split
  · exact h
  · exact performEvent_keeps_inv (inv_of_outside h _ _ _) _

/-- Settles O48: a step is a command at its instant or an event of the outside, and each of them keeps the invariant. -/
theorem stepKeepsInvariant : Obligations.StepKeepsInvariant := by
  intro s t h ht
  rw [step, machineStep] at ht
  split at ht
  · cases ht; exact hostStep_keeps_inv h
  · next hreset =>
    have hr := Bool.eq_false_iff.2 hreset
    split at ht
    · cases ht; exact hostStep_keeps_inv h
    · split at ht
      · exact runCommand_keeps_inv h hr ht
      · cases ht; exact hostStep_keeps_inv (inv_wait h hr _)

end Sys2Proof.Proofs
end

section
/-! The answers of the register window (R73 to R78, R386): refused accesses, writes that are ignored, reads, text buffers. -/

namespace Sys2Proof.Proofs

open Sys2Proof Sys2Proof.Machine Sys2Proof.Claims Sys2Proof.Laws

/-! ### Refused accesses -/

theorem legalAccess_eq_false {off : BitVec 14} {bytes : Nat} (h : bytes ≠ 4 ∨ off.toNat % 4 ≠ 0) :
    legalAccess off bytes = false := by
  rw [legalAccess, Bool.and_eq_false_iff, beq_eq_false_iff_ne, beq_eq_false_iff_ne]
  exact h

theorem hostRead_of_illegal (s : State) {off : BitVec 14} {bytes : Nat} (h : legalAccess off bytes = false) :
    hostRead s off bytes = refuseAccess s (.read off bytes) := by
  rw [hostRead, if_pos (Bool.eq_false_iff.1 h)]

theorem hostWrite_of_illegal (s : State) {off : BitVec 14} {bytes : Nat} (v : Word) (h : legalAccess off bytes = false) :
    hostWrite s off bytes v = refuseAccess s (.write off bytes v) := by
  rw [hostWrite, if_pos (Bool.eq_false_iff.1 h)]

theorem sameBlock_refuseAccess (s : State) (e : HostEvent) : SameBlock s (refuseAccess s e) := by
  simp [SameBlock, refuseAccess]

/-- No read, legal or refused, in reset or not, changes the block (R74, R76). -/
theorem sameBlock_hostRead (s : State) (off : BitVec 14) (bytes : Nat) : SameBlock s (hostRead s off bytes) := by
  rw [hostRead]
  split_ifs
  · exact sameBlock_respond s _
  · simp [SameBlock]
  · exact sameBlock_respond s _
  · exact sameBlock_refuseAccess s _

/-! ### What an offset names -/

theorem windowRegAt_tin {off : Nat} (hlo : 0x1000 ≤ off) (hhi : off < 0x2000) : windowRegAt off = .tin (off - 0x1000) := by
  rw [windowRegAt, if_neg (by omega), if_neg (by omega), if_neg (by omega), if_pos hhi]

theorem windowRegAt_tout {off : Nat} (hlo : 0x2000 ≤ off) (hhi : off < 0x3000) : windowRegAt off = .tout (off - 0x2000) := by
  rw [windowRegAt, if_neg (by omega), if_neg (by omega), if_neg (by omega), if_neg (by omega), if_pos hhi]

/-- The holes of R72's map. -/
theorem windowRegAt_unmapped {off : Nat} (hoff : off = 0x3C ∨ (0x58 ≤ off ∧ off < 0x100) ∨
    (0x100 ≤ off ∧ off < 0x300 ∧ 0x20 < off % 0x40) ∨ (0x300 ≤ off ∧ off < 0x1000) ∨ 0x3000 ≤ off) :
    windowRegAt off = .unmapped := by
  rcases hoff with rfl | ⟨hlo, hhi⟩ | ⟨hlo, hhi, hview⟩ | ⟨hlo, hhi⟩ | hlo
  · rfl
  · rw [windowRegAt, if_pos hhi]
    unfold controlRegAt
    split
    case h_22 => rfl
    all_goals omega
  · rw [windowRegAt, if_neg (by omega), if_pos hhi, containerRegAt, if_neg (by omega), if_neg (by omega)]
  · rw [windowRegAt, if_neg (by omega), if_neg (by omega), if_pos hhi]
  · rw [windowRegAt, if_neg (by omega), if_neg (by omega), if_neg (by omega), if_neg (by omega), if_neg (by omega)]

theorem isOperand_containerRegAt (k r : Nat) : (containerRegAt k r).isOperand = false := by
  rw [containerRegAt]
  split_ifs <;> rfl

theorem isOperand_controlRegAt {off : Nat} (hoff : off < 0x100) :
    (controlRegAt off).isOperand = true ↔ OperandOffset off := by
  unfold controlRegAt OperandOffset
  split
  case h_22 => simp only [WindowReg.isOperand, Bool.false_eq_true, false_iff]; grind
  all_goals simp [WindowReg.isOperand]

/-- CMD and the operand registers are the ones at the operand offsets (R72, R75). -/
theorem isOperand_windowRegAt {off : Nat} (hoff : off % 4 = 0) : (windowRegAt off).isOperand = true ↔ OperandOffset off := by
  rw [windowRegAt]
  split_ifs with hcontrol
  · exact isOperand_controlRegAt hcontrol
  · rw [isOperand_containerRegAt]
    simp only [OperandOffset, Bool.false_eq_true, false_iff]
    omega
  all_goals
    simp only [WindowReg.isOperand, OperandOffset, Bool.false_eq_true, false_iff, true_iff]
    omega

/-- STATUS has one offset. -/
theorem offset_of_status {off : Nat} (h : windowRegAt off = .status) : off = 0x0C := by
  rw [windowRegAt] at h
  split at h
  · unfold controlRegAt at h; split at h <;> cases h; rfl
  · rw [containerRegAt] at h; split_ifs at h

theorem isResult_of_isOperand {r : WindowReg} (h : r.isOperand = true) : r.isResult = false := by
  cases r with
  | cmd | prec | din0 | din1 | din2 | din3 | tinLen | tin => rfl
  | _ => cases h

/-- Only CMD, STATUS and the operand registers take a write (R75). -/
theorem writeReg_of_readOnly (s : State) {r : WindowReg} (v : Word) (hop : r.isOperand = false) (hstatus : r ≠ .status) :
    writeReg s r v = s := by
  cases r with
  | cmd | prec | din0 | din1 | din2 | din3 | tinLen | tin => cases hop
  | status => exact absurd rfl hstatus
  | _ => rfl

/-! ### Bytes of a text buffer word -/

theorem byteLane_eq_ofNat (v : Word) (n : Nat) : byteLane v n = BitVec.ofNat 8 (v.toNat / 2 ^ (8 * n)) := by
  rw [byteLane, BitVec.extractLsb', Nat.shiftRight_eq_div_pow]

/-- Byte lane n of a buffer word: the n bytes below it are dropped, and it is the low part of what is left (R78). -/
theorem byteLane_bufferWord (m : Memory) (i : Nat) {n : Nat} (hn : n < 4) : byteLane (bufferWord m i) n = m.read (i + n) := by
  interval_cases n
  · exact BitVec.extractLsb'_append_eq_right
  · exact (BitVec.extractLsb'_append_eq_of_le (by decide)).trans BitVec.extractLsb'_append_eq_right
  · calc (bufferWord m i).extractLsb' 16 8
      _ = (m.read (i + 3) ++ m.read (i + 2) ++ m.read (i + 1)).extractLsb' 8 8 := BitVec.extractLsb'_append_eq_of_le (by decide)
      _ = (m.read (i + 3) ++ m.read (i + 2)).extractLsb' 0 8 := BitVec.extractLsb'_append_eq_of_le (by decide)
      _ = m.read (i + 2) := BitVec.extractLsb'_append_eq_right
  · calc (bufferWord m i).extractLsb' 24 8
      _ = (m.read (i + 3) ++ m.read (i + 2) ++ m.read (i + 1)).extractLsb' 16 8 := BitVec.extractLsb'_append_eq_of_le (by decide)
      _ = (m.read (i + 3) ++ m.read (i + 2)).extractLsb' 8 8 := BitVec.extractLsb'_append_eq_of_le (by decide)
      _ = m.read (i + 3) := BitVec.extractLsb'_append_eq_left

theorem read_eq_lane (m : Memory) (i : Nat) {n : Nat} (hn : n < 4) :
    m.read (i + n) = BitVec.ofNat 8 ((bufferWord m i).toNat / 2 ^ (8 * n)) := by
  rw [← byteLane_eq_ofNat, byteLane_bufferWord m i hn]

theorem read_writeBufferWord_same {m : Memory} {i n : Nat} (v : Word) (h : m.wf = true) (hi : i + 3 < 4096) (hn : n < 4) :
    (writeBufferWord m i v).read (i + n) = byteLane v n := by
  have h0 : (m.write i (byteLane v 0)).wf = true := write_keeps_wf _ h (by omega)
  have h1 := write_keeps_wf (byteLane v 1) h0 (a := i + 1) (by omega)
  have h2 := write_keeps_wf (byteLane v 2) h1 (a := i + 2) (by omega)
  rw [writeBufferWord]
  interval_cases n
  · rw [read_write_other _ _ (by omega), read_write_other _ _ (by omega), read_write_other _ _ (by omega)]
    exact read_write_same m i _ h
  · rw [read_write_other _ _ (by omega), read_write_other _ _ (by omega)]
    exact read_write_same _ (i + 1) _ h0
  · rw [read_write_other _ _ (by omega)]
    exact read_write_same _ (i + 2) _ h1
  · exact read_write_same _ (i + 3) _ h2

theorem read_writeBufferWord_other (m : Memory) {i a : Nat} (v : Word) (ha : a < i ∨ i + 3 < a) :
    (writeBufferWord m i v).read a = m.read a := by
  rw [writeBufferWord, read_write_other _ _ (by omega), read_write_other _ _ (by omega), read_write_other _ _ (by omega),
    read_write_other _ _ (by omega)]

/-! ### Statements about accesses -/

/-- Settles O53: offset 0x1000 + 4i or 0x2000 + 4i is the word of the buffer's bytes from 4i on. -/
theorem textWindowIsLittleEndian : Obligations.TextWindowIsLittleEndian := by
  intro s i n v off h hidle hr hi hn
  refine ⟨fun hoff => ?_, fun hoff => ?_⟩
  · have hreg : windowRegAt off.toNat = .tin (4 * i) := by
      rw [windowRegAt_tin (by omega) (by omega), hoff, Nat.add_sub_cancel_left]
    have hwrite := hostWrite_of_idle hidle hr (off := off) v (by omega)
    have hread := hostRead_response_of_idle hidle hr (off := off) (by omega)
    rw [hreg] at hwrite hread
    have htin : (hostWrite s off 4 v).tin = writeBufferWord s.tin (4 * i) v := by rw [hwrite]; rfl
    rw [htin, hwrite]
    refine ⟨?_, fun a ha => read_writeBufferWord_other s.tin v (by omega), sameBlock_respond _ _, _, hread,
      read_eq_lane s.tin (4 * i) hn⟩
    rw [read_writeBufferWord_same v h.tin_wf (by omega) hn, byteLane_eq_ofNat]
  · have hreg : windowRegAt off.toNat = .tout (4 * i) := by
      rw [windowRegAt_tout (by omega) (by omega), hoff, Nat.add_sub_cancel_left]
    have hread := hostRead_response_of_idle hidle hr (off := off) (by omega)
    rw [hreg] at hread
    exact ⟨_, hread, read_eq_lane s.tout (4 * i) hn⟩

/-- Settles O56: a refused access draws the host's reaction only; an offset of no operand and not of STATUS names a register
that keeps its value; a hole of the map reads 0 also while the engine is busy. -/
theorem refusedAndIgnoredAccesses : Obligations.RefusedAndIgnoredAccesses := by
  intro s off bytes v hr
  refine ⟨fun h => ?_, fun hoff hop hstatus => ?_, fun hoff hhole => ?_⟩
  · have hillegal := legalAccess_eq_false h
    rw [hostRead_of_illegal s hillegal, hostWrite_of_illegal s v hillegal]
    exact ⟨sameBlock_refuseAccess s _, rfl, sameBlock_refuseAccess s _, rfl⟩
  · have hreadOnly := Bool.eq_false_iff.2 (mt (isOperand_windowRegAt hoff).1 hop)
    rw [hostWrite_eq v hr hoff (by rw [hreadOnly, Bool.and_false]),
      writeReg_of_readOnly s v hreadOnly (mt offset_of_status hstatus)]
    exact ⟨sameBlock_respond s _, by simp⟩
  · have hreg := windowRegAt_unmapped hhole
    rw [hostRead_response hr hoff (by rw [hreg]; exact Bool.and_false _), hreg]
    rfl

/-- A register that is no result shows its value, `Idle` or `Busy` (R386). -/
theorem shows_of_not_result {s : State} {off : BitVec 14} {n : Nat} (hr : s.resetLine = false) (hoff : off.toNat % 4 = 0)
    (hresult : (windowRegAt off.toNat).isResult = false) (hn : (readReg s (windowRegAt off.toNat)).toNat = n) : Shows s off n :=
  ⟨_, hostRead_response hr hoff (by rw [hresult, Bool.and_false]), hn⟩

/-- Settles O57: only a result register's read asks for an idle engine, and each offset named is that of its register. -/
theorem readsHaveNoSideEffects : Obligations.ReadsHaveNoSideEffects := by
  intro s off hr hoff
  refine ⟨sameBlock_hostRead s off 4, fun hidle => hostRead_response_of_idle hidle hr hoff, fun hname => ?_,
    shows_of_not_result hr rfl rfl rfl, shows_of_not_result hr rfl rfl rfl, shows_of_not_result hr rfl rfl rfl,
    shows_of_not_result hr rfl rfl (BitVec.toNat_setWidth_of_le (by decide)),
    shows_of_not_result hr rfl rfl rfl, shows_of_not_result hr rfl rfl rfl,
    shows_of_not_result hr rfl rfl rfl, shows_of_not_result hr rfl rfl rfl,
    shows_of_not_result hr rfl rfl (BitVec.toNat_setWidth_of_le (by decide)),
    fun hidle => shows_of_idle hidle hr rfl (BitVec.toNat_setWidth_of_le (by decide))⟩
  have hresult : (windowRegAt off.toNat).isResult = false := by
    rcases hname with h | h | h | h
    · rw [h]; rfl
    · rw [h]; rfl
    · rw [h]; rfl
    · exact isResult_of_isOperand ((isOperand_windowRegAt hoff).2 h)
  exact hostRead_response hr hoff (by rw [hresult, Bool.and_false])

end Sys2Proof.Proofs
end

section
/-! The command word (R101 to R119): what its fields hold, which row of the opcode map it fits, and that the encoder and the
decoder are inverse to each other. -/

namespace Sys2Proof.Proofs

open Sys2Proof Sys2Proof.Machine Sys2Proof.Claims Sys2Proof.Laws

/-! ### Fields of a word -/

theorem getLsbD_fieldMask (lo len i : Nat) :
    (fieldMask lo len).getLsbD i = (decide (i < 32) && decide (lo ≤ i) && decide (i < lo + len)) := by
  rw [fieldMask, BitVec.getLsbD_shiftLeft, BitVec.getLsbD_ofNat, Nat.testBit_two_pow_sub_one]
  grind

theorem wordField_lt (w : Word) (lo len : Nat) : wordField w lo len < 2 ^ len := BitVec.isLt _

theorem wordField_or (v w : Word) (lo len : Nat) : wordField (v ||| w) lo len = wordField v lo len ||| wordField w lo len := by
  rw [wordField, BitVec.extractLsb'_or, BitVec.toNat_or, wordField, wordField]

/-- A field is made of the bits under its mask. -/
theorem wordField_and_fieldMask (w : Word) (lo len : Nat) : wordField (w &&& fieldMask lo len) lo len = wordField w lo len := by
  refine congrArg BitVec.toNat (BitVec.eq_of_getLsbD_eq fun i hi => ?_)
  simp only [BitVec.getLsbD_extractLsb', BitVec.getLsbD_and, getLsbD_fieldMask]
  grind

theorem wordField_one (w : Word) (i : Nat) : wordField w i 1 = (wordFlag w i).toNat := by
  rw [wordField, BitVec.extractLsb'_toNat, Nat.pow_one, Nat.shiftRight_eq_div_pow, ← Nat.toNat_testBit, wordFlag, BitVec.getLsbD]

theorem wordField_one_eq_zero {w : Word} {i : Nat} : wordField w i 1 = 0 ↔ w.getLsbD i = false := by
  rw [wordField_one, Bool.toNat_eq_zero, wordFlag]

theorem wordFlag_eq_decide (w : Word) (i : Nat) : wordFlag w i = decide (wordField w i 1 = 1) := by
  rw [wordField_one]
  cases wordFlag w i <;> rfl

theorem toField_ofField : ∀ v < 8, (CReg.ofField v).toField = v := by decide

/-! ### Placing what was read -/

theorem placeField_wordField (w : Word) (lo len : Nat) : placeField lo (wordField w lo len) = w &&& fieldMask lo len := by
  rw [placeField, wordField, BitVec.ofNat_toNat]
  refine BitVec.eq_of_getLsbD_eq fun i hi => ?_
  simp only [BitVec.getLsbD_shiftLeft, BitVec.getLsbD_setWidth, BitVec.getLsbD_extractLsb', BitVec.getLsbD_and, getLsbD_fieldMask]
  grind

theorem placeField_toField_ofField (w : Word) (lo : Nat) :
    placeField lo (CReg.ofField (wordField w lo 3)).toField = w &&& fieldMask lo 3 := by
  rw [toField_ofField _ (wordField_lt w lo 3), placeField_wordField]

theorem placeFlag_wordFlag (w : Word) (lo : Nat) : placeFlag lo (wordFlag w lo) = w &&& fieldMask lo 1 := by
  rw [placeFlag, ← wordField_one, placeField_wordField]

theorem or_and_or_and (v w m m' : Word) : v ||| w &&& m ||| w &&& m' = v ||| w &&& (m ||| m') := by
  rw [BitVec.and_or_distrib_left, BitVec.or_assoc]

/-! ### Reading what was placed -/

theorem wordField_placeField {lo len v : Nat} (hv : v < 2 ^ len) (h : lo + len ≤ 32) :
    wordField (placeField lo v) lo len = v := by
  have hext : (placeField lo v).extractLsb' lo len = BitVec.ofNat len v := by
    refine BitVec.eq_of_getLsbD_eq fun i hi => ?_
    simp only [placeField, BitVec.getLsbD_extractLsb', BitVec.getLsbD_shiftLeft, BitVec.getLsbD_ofNat]
    grind
  rw [wordField, hext, BitVec.toNat_ofNat, Nat.mod_eq_of_lt hv]

/-- A placed value leaves every field beside it at 0. -/
theorem wordField_placeField_disjoint {lo len lo' len' v : Nat} (hv : v < 2 ^ len') (h : lo + len ≤ lo' ∨ lo' + len' ≤ lo) :
    wordField (placeField lo' v) lo len = 0 := by
  have hmask : fieldMask lo' len' &&& fieldMask lo len = 0#32 := by
    refine BitVec.eq_of_getLsbD_eq fun i hi => ?_
    simp only [BitVec.getLsbD_and, getLsbD_fieldMask]
    grind
  rw [← wordField_and_fieldMask, placeField_free hv hmask, wordField, BitVec.extractLsb'_zero, BitVec.toNat_ofNat, Nat.zero_mod]

/-! ### The rows of the opcode map -/

/-- Two rows ask for different values of some bit that both fix, so no word fits both. -/
theorem opRows_pairwise : opRows.Pairwise fun r q => r.pattern &&& q.mask ≠ q.pattern &&& r.mask := by decide

theorem opRows_nodup : opRows.Nodup := opRows_pairwise.imp fun h heq => h (by rw [heq])

theorem pattern_and_mask : ∀ r ∈ opRows, r.pattern &&& r.mask = r.pattern := by decide

theorem row_unique {w : Word} {r q : OpRow} (hr : r ∈ opRows) (hq : q ∈ opRows) (hrw : w &&& r.mask = r.pattern)
    (hqw : w &&& q.mask = q.pattern) : r = q := by
  have hsymm : Std.Symm fun r q : OpRow => r.pattern &&& q.mask ≠ q.pattern &&& r.mask := ⟨fun _ _ => Ne.symm⟩
  by_contra hne
  refine opRows_pairwise.forall hr hq hne ?_
  rw [← hrw, ← hqw, BitVec.and_assoc, BitVec.and_assoc, BitVec.and_comm r.mask]

theorem fits_iff {r : OpRow} {w : Word} : r.fits w = true ↔ w &&& r.mask = r.pattern := beq_iff_eq

theorem decode_of_fits {w : Word} {r : OpRow} (hr : r ∈ opRows) (hw : w &&& r.mask = r.pattern) :
    decode w = .ok (r.build w) := by
  rw [decode, find_row hr (fits_iff.2 hw) fun q hq hqw => row_unique hq hr (fits_iff.1 hqw) hw]

theorem decode_of_no_row {w : Word} (h : ∀ r ∈ opRows, w &&& r.mask ≠ r.pattern) :
    decode w = .error (if assignedOpcode (wordField w 0 8) then .reservedEncoding else .unassignedOpcode) := by
  rw [decode, List.find?_eq_none.2 fun r hr hf => h r hr (fits_iff.1 hf)]

/-- A word that decodes fits a row, whose command it is. -/
theorem row_of_decode {w : Word} {i : Instr} (h : decode w = .ok i) :
    ∃ r ∈ opRows, w &&& r.mask = r.pattern ∧ r.build w = i := by
  by_contra! hno
  have hnone : ∀ r ∈ opRows, w &&& r.mask ≠ r.pattern := fun r hr hw =>
    hno r hr hw (Except.ok.inj ((decode_of_fits hr hw).symm.trans h))
  exact nomatch (decode_of_no_row hnone).symm.trans h

/-- Settles O3: no word fits two rows, so the search answers the row a word fits, and an error when it fits none. -/
theorem decodingIsTotalAndUnambiguous : Obligations.DecodingIsTotalAndUnambiguous := by
  refine fun w => ⟨?_, fun i j hi hj => ?_⟩
  · by_cases h : ∃ r ∈ opRows, w &&& r.mask = r.pattern
    · obtain ⟨r, hr, hw⟩ := h
      exact .inl ⟨r, hr, hw, decode_of_fits hr hw⟩
    · push Not at h
      exact .inr ⟨h, _, decode_of_no_row h⟩
  · have hrow := row_unique (List.getElem_mem i.isLt) (List.getElem_mem j.isLt) hi hj
    exact Fin.ext (opRows_nodup.getElem_inj_iff.1 hrow)

/-! ### The encoder and the rows -/

/-- The command a row builds from a word is encoded as the row's pattern, with the word's bits in the fields the row leaves
free: those fields are all the bits outside the mask (R114). -/
theorem encode_build : ∀ r ∈ opRows, ∀ w, encode (r.build w) = r.pattern ||| w &&& ~~~r.mask := by
  simp only [opRows, containerRows, layoutRows, specialRows, codecRows, List.cons_append, List.nil_append, List.forall_mem_cons]
  -- Each field placed again is the word under the field's mask; the masks then add up to the bits outside the row's.
  simp only [encode, constructWord, placeCD, placeCA, placeCB, fieldCD, fieldCA, fieldCB, fieldN, fieldP, fieldLO, fieldHI,
    fieldIDX, fieldSW, fieldEW, fieldMW, fieldS, fieldSIG, placeField_toField_ofField, placeFlag_wordFlag, placeField_wordField]
  simp [fieldMask, placeField, placeFlag, or_and_or_and]

theorem wellFormed_build : ∀ r ∈ opRows, ∀ w, (r.build w).wellFormed = true := by
  have h9 (w : Word) (lo : Nat) : wordField w lo 9 < 512 := wordField_lt w lo 9
  have h4 (w : Word) (lo : Nat) : wordField w lo 4 < 16 := wordField_lt w lo 4
  simp [opRows, containerRows, layoutRows, specialRows, codecRows, Instr.wellFormed, fieldN, fieldLO, fieldHI, fieldIDX, fieldEW,
    fieldMW, h9, h4]

/-- Settles O2: the word's bits are those of its row's pattern and those in the row's free fields. -/
theorem encodeOfDecodedWord : Obligations.EncodeOfDecodedWord := by
  intro w i h
  obtain ⟨r, hr, hw, rfl⟩ := row_of_decode h
  refine ⟨wellFormed_build r hr w, ?_⟩
  rw [encode_build r hr, ← hw, ← BitVec.and_or_distrib_left, BitVec.or_not_self, BitVec.and_allOnes]

/-- The rows stand in the order of the commands, and a command's row reads from its word the operands placed there. -/
theorem build_encode {i : Instr} (h : i.wellFormed = true) : ∃ r ∈ opRows, r.build (encode i) = i := by
  have hrow : i.ctorIdx < opRows.length := by cases i <;> exact Nat.le_of_ble_eq_true rfl
  refine ⟨opRows[i.ctorIdx], List.getElem_mem hrow, ?_⟩
  cases i
  all_goals
    -- The bounds of its immediates, by which each field holds the one operand placed in it.
    simp only [Instr.wellFormed, fitsImm9, fitsIdx, Bool.and_eq_true, decide_eq_true_eq] at h
    simp [Instr.ctorIdx, opRows, containerRows, layoutRows, specialRows, codecRows, encode, constructWord, placeCD, placeCA,
      placeCB, placeFlag, fieldCD, fieldCA, fieldCB, fieldN, fieldP, fieldLO, fieldHI, fieldIDX, fieldSW, fieldEW, fieldMW,
      fieldS, fieldSIG, wordFlag_eq_decide, wordField_or, h,
      wordField_placeField (toField_lt _), wordField_placeField_disjoint (toField_lt _),
      wordField_placeField (flag_lt _), wordField_placeField_disjoint (flag_lt _),
      wordField_placeField (len := 9), wordField_placeField_disjoint (len' := 9),
      wordField_placeField (len := 4), wordField_placeField_disjoint (len' := 4)]
  -- What is left is the opcode and the selectors, whose bits are 0 in every operand's field.
  all_goals simp [wordField, ofField_toField]

/-- Settles O1: the word of a command is its row's pattern outside the free fields, so it fits the row that builds it again. -/
theorem decodeEncodeRoundTrip : Obligations.DecodeEncodeRoundTrip := by
  intro i h
  obtain ⟨r, hr, hbuild⟩ := build_encode h
  have hword : encode i = r.pattern ||| encode i &&& ~~~r.mask := by rw [← encode_build r hr, hbuild]
  have hfits : encode i &&& r.mask = r.pattern := by
    rw [hword, BitVec.and_or_distrib_right, pattern_and_mask r hr, BitVec.and_assoc, BitVec.not_and_self]
    simp
  rw [decode_of_fits hr hfits, hbuild]

/-! ### Reserved encodings -/

/-- The row's mask holds every bit of the field, so the row fixes its value. -/
abbrev Fixes (r : OpRow) (lo len : Nat) : Prop := r.mask &&& fieldMask lo len = fieldMask lo len

theorem wordField_of_fits {r : OpRow} {w : Word} (hw : w &&& r.mask = r.pattern) {lo len : Nat} (h : Fixes r lo len) :
    wordField w lo len = wordField r.pattern lo len := by
  rw [← wordField_and_fieldMask w, ← h, ← BitVec.and_assoc, hw, wordField_and_fieldMask]

theorem row_opcode : ∀ r ∈ opRows, Fixes r 0 8 ∧ assignedOpcode (wordField r.pattern 0 8) = true := by decide

/-- The rows of FROMU fix T to a type (R112). -/
theorem row_fromu_type : ∀ r ∈ opRows, wordField r.pattern 0 8 = 0x03 →
    Fixes r 24 3 ∧ wordField r.pattern 24 3 < 5 := by decide

/-- The rows of CONSTRUCT fix LM to a landmark (R113). -/
theorem row_landmark : ∀ r ∈ opRows, wordField r.pattern 0 8 = 0x20 →
    Fixes r 14 4 ∧ wordField r.pattern 14 4 < 10 := by decide

/-- Only ZERO and INF leave S free. -/
theorem row_sign_zero : ∀ r ∈ opRows, wordField r.pattern 0 8 = 0x20 → 2 ≤ wordField r.pattern 14 4 →
    Fixes r 18 1 ∧ wordField r.pattern 18 1 = 0 := by decide

/-- Only NAN leaves SIG and CA free. -/
theorem row_nan_fields_zero : ∀ r ∈ opRows, wordField r.pattern 0 8 = 0x20 → wordField r.pattern 14 4 ≠ 2 →
    (Fixes r 19 1 ∧ wordField r.pattern 19 1 = 0) ∧ Fixes r 11 3 ∧ wordField r.pattern 11 3 = 0 := by decide

/-- Of the two rows of PARSE the one with P = 0 has no N. -/
theorem row_parse_size_zero : ∀ r ∈ opRows, wordField r.pattern 0 8 = 0x0B →
    Fixes r 23 1 ∧ (wordField r.pattern 23 1 = 0 → Fixes r 14 9 ∧ wordField r.pattern 14 9 = 0) := by decide

theorem opcode_of_fits {r : OpRow} {w : Word} (hr : r ∈ opRows) (hw : w &&& r.mask = r.pattern) :
    wordField w 0 8 = wordField r.pattern 0 8 := wordField_of_fits hw (row_opcode r hr).1

theorem decode_of_unassigned {w : Word} (h : assignedOpcode (wordField w 0 8) = false) :
    decode w = .error .unassignedOpcode := by
  rw [decode_of_no_row, if_neg (Bool.eq_false_iff.1 h)]
  intro r hr hw
  rw [opcode_of_fits hr hw, (row_opcode r hr).2] at h
  exact Bool.noConfusion h

/-- A word with an assigned opcode is a reserved encoding when it fits none of that opcode's rows. -/
theorem decode_of_reserved {w : Word} {opc : Nat} (hopc : wordField w 0 8 = opc) (hassigned : assignedOpcode opc = true)
    (h : ∀ r ∈ opRows, wordField r.pattern 0 8 = opc → w &&& r.mask ≠ r.pattern) : decode w = .error .reservedEncoding := by
  rw [decode_of_no_row fun r hr hw => h r hr (opcode_of_fits hr hw ▸ hopc) hw, hopc, if_pos hassigned]

/-- Settles O4: each clause names a field whose value the rows of the opcode fix to another one. -/
theorem unassignedAndReservedWordsAreIllegal : Obligations.UnassignedAndReservedWordsAreIllegal := by
  intro w
  refine ⟨fun opc hopc hunassigned => decode_of_unassigned ?_, fun hno => ⟨_, decode_of_no_row hno⟩,
    fun hopc htype => decode_of_reserved hopc rfl fun r hr hrow hw => ?_,
    fun hopc hlm => decode_of_reserved hopc rfl fun r hr hrow hw => ?_,
    fun hopc hlm hsign => decode_of_reserved hopc rfl fun r hr hrow hw => ?_,
    fun hopc hlm hnan => decode_of_reserved hopc rfl fun r hr hrow hw => ?_,
    fun hopc hp hsize => decode_of_reserved hopc rfl fun r hr hrow hw => ?_⟩
  · have hlt := wordField_lt w 0 8
    simp only [assignedOpcode, hopc, Bool.or_eq_false_iff, Bool.and_eq_false_iff, decide_eq_false_iff_not]
    omega
  · obtain ⟨hfix, hlt⟩ := row_fromu_type r hr hrow
    rw [← wordField_of_fits hw hfix] at hlt
    omega
  · obtain ⟨hfix, hlt⟩ := row_landmark r hr hrow
    rw [← wordField_of_fits hw hfix] at hlt
    omega
  · obtain ⟨hfix, hzero⟩ := row_sign_zero r hr hrow (wordField_of_fits hw (row_landmark r hr hrow).1 ▸ hlm)
    rw [← wordField_of_fits hw hfix, wordField_one_eq_zero, hsign] at hzero
    exact Bool.noConfusion hzero
  · obtain ⟨⟨hsig, hsigZero⟩, hca, hcaZero⟩ :=
      row_nan_fields_zero r hr hrow (wordField_of_fits hw (row_landmark r hr hrow).1 ▸ hlm)
    rw [← wordField_of_fits hw hsig, wordField_one_eq_zero] at hsigZero
    rw [← wordField_of_fits hw hca] at hcaZero
    exact hnan.elim (Bool.eq_false_iff.1 hsigZero) (· hcaZero)
  · obtain ⟨hfixP, hzero⟩ := row_parse_size_zero r hr hrow
    rw [← wordField_of_fits hw hfixP] at hzero
    obtain ⟨hfix, hsizeZero⟩ := hzero (wordField_one_eq_zero.2 hp)
    exact hsize ((wordField_of_fits hw hfix).trans hsizeZero)

/-! ### An illegal word at the step -/

/-- At its instant a busy engine runs the command word it holds. -/
theorem step_at_instant {s : State} {w : Word} (hbusy : s.engine = .busy w) (hr : s.resetLine = false)
    (hinstant : s.wait = 0 ∨ s.pending = []) : step s = runCommand w s := by
  have hreached : instantReached s = true := by
    obtain h | h := hinstant <;> simp [instantReached, h]
  simp only [step, machineStep, hr, hbusy, hreached, if_true, Bool.false_eq_true, if_false]

theorem runCommand_of_error {w : Word} {e : DecodeError} (h : decode w = .error e) (s : State) :
    runCommand w s = .next (raiseError .illegal s) := by
  rw [runCommand, h]

theorem failed_raiseError (e : ErrorCode) (s : State) : Failed e s (raiseError e s) := by
  simp [Failed, SameRegs, SameTout, SameResult, Unwritten]

/-- Settles O6: at its instant the illegal word raises its error, which writes STATUS and frees the engine. -/
theorem illegalWordOnlySetsStatus : Obligations.IllegalWordOnlySetsStatus := by
  intro s w e hbusy hr hinstant hw
  exact ⟨_, (step_at_instant hbusy hr hinstant).trans (runCommand_of_error hw s), failed_raiseError .illegal s⟩

end Sys2Proof.Proofs
end

section
/-! The container functions of R142 bit by bit, the integer laws that follow (40_bitcontainer.md section 7), and MSB-first texts
(R14): which bits a text shows, and that a rendered container shows its own. -/

namespace Sys2Proof.Proofs

open Sys2Proof Sys2Proof.Machine Sys2Proof.Claims Sys2Proof.Laws

/-! ### Bits of the container functions -/

/-- A container of a legal form with n bits, bit j of which is `f j`. -/
def HasBits (c : Container) (n : Nat) (f : Nat → Bool) : Prop := c.wf ∧ c.size = n ∧ ∀ j, c.bit j = f j

/-- Legal containers of one size are equal when their bits below it are. -/
theorem container_ext {x y : Container} (hx : x.wf) (hy : y.wf) (hsize : x.size = y.size)
    (hbit : ∀ j, j < y.size → x.bit j = y.bit j) : x = y := by
  have hbits : x.bits = y.bits := by
    refine Nat.eq_of_testBit_eq fun j => ?_
    rw [← bit_eq_testBit hx, ← bit_eq_testBit hy]
    obtain hj | hj := Nat.lt_or_ge j y.size
    · exact hbit j hj
    · rw [bit_of_ge hj, bit_of_ge (hsize ▸ hj)]
  exact congrArg₂ Container.mk hsize hbits

theorem hasBits_of_testBit {c : Container} {f : Nat → Bool} (hc : c.wf) (hf : ∀ j, c.bits.testBit j = f j) :
    HasBits c c.size f :=
  ⟨hc, rfl, fun j => (bit_eq_testBit hc j).trans (hf j)⟩

theorem hasBits_zeros {n : Nat} (hn : n ≤ 256) : HasBits (zeros n) n fun _ => false :=
  hasBits_of_testBit (wf_zeros hn) fun j => Nat.zero_testBit j

theorem hasBits_onesC {n : Nat} (hn : n ≤ 256) : HasBits (onesC n) n fun j => decide (j < n) :=
  hasBits_of_testBit (wf_onesC hn) fun j => Nat.testBit_two_pow_sub_one n j

theorem hasBits_cat {x y : Container} (hx : x.wf) (hy : y.wf) (h : x.size + y.size ≤ 256) :
    HasBits (cat x y) (x.size + y.size) fun j => if j < y.size then y.bit j else x.bit (j - y.size) := by
  refine hasBits_of_testBit (wf_cat hx hy h) fun j => ?_
  rw [cat, Nat.mul_comm, Nat.testBit_two_pow_mul_add _ hy.2, bit_eq_testBit hx, bit_eq_testBit hy]

/-- The law of `rsLow` when it grows, its own branch; at n = size both laws hold (R142). -/
theorem bits_rsLow_of_le {x : Container} {n : Nat} (h : x.size ≤ n) : (rsLow x n).bits = x.bits * 2 ^ (n - x.size) := by
  rw [rsLow, if_pos h]

theorem bits_rsLow_of_ge {x : Container} {n : Nat} (h : n ≤ x.size) : (rsLow x n).bits = x.bits / 2 ^ (x.size - n) := by
  obtain hlt | rfl := h.lt_or_eq
  · rw [rsLow, if_neg hlt.not_ge]
  · rw [bits_rsLow_of_le le_rfl, Nat.sub_self, pow_zero, mul_one, Nat.div_one]

theorem size_rsLow (x : Container) (n : Nat) : (rsLow x n).size = n := by
  rw [rsLow]
  split <;> rfl

theorem hasBits_rsLow {x : Container} {n : Nat} (hx : x.wf) (hn : n ≤ 256) :
    HasBits (rsLow x n) n fun j => decide (j < n) && decide (n ≤ j + x.size) && x.bit (j + x.size - n) := by
  refine ⟨wf_rsLow hx hn, size_rsLow x n, fun j => ?_⟩
  dsimp only
  rw [Container.bit, size_rsLow, bit_eq_testBit hx, Bool.and_assoc]
  congr 1
  obtain h | h := Nat.le_total x.size n
  · rw [bits_rsLow_of_le h, Nat.testBit_mul_two_pow, Nat.sub_sub_right j h]
    simp only [Nat.sub_le_iff_le_add]
  · rw [bits_rsLow_of_ge h, Nat.testBit_div_two_pow, Nat.add_sub_assoc h, decide_eq_true (by omega), Bool.true_and]

theorem hasBits_rsHigh {x : Container} {n : Nat} (hx : x.wf) (hn : n ≤ 256) :
    HasBits (rsHigh x n) n fun j => decide (j < n) && x.bit j := by
  refine hasBits_of_testBit (wf_rsHigh x hn) fun j => ?_
  rw [rsHigh, Nat.testBit_mod_two_pow, bit_eq_testBit hx]

theorem hasBits_sub (x : Container) {lo hi : Nat} (hhi : hi ≤ 256) :
    HasBits (sub x lo hi) (hi - lo) fun j => decide (j < hi - lo) && x.bit (lo + j) :=
  ⟨wf_sub x hhi, rfl, bit_sub x lo hi⟩

/-- The bits below position n stay, the new bit comes above them, and the bits above it stay (R147). -/
theorem bits_withBit {d : Container} {n : Nat} (hn : n < d.size) (p : Bool) :
    (d.withBit n p).bits = 2 ^ n * Nat.bit p (d.bits / 2 ^ (n + 1)) + d.bits % 2 ^ n := by
  have hhigh : d.bits / 2 ^ n = Nat.bit (d.bit n) (d.bits / 2 ^ (n + 1)) := by
    rw [bit_of_lt hn, Nat.bit_val, Nat.toNat_testBit, pow_succ, ← Nat.div_div_eq_div_mul, Nat.div_add_mod]
  have hsplit := Nat.div_add_mod d.bits (2 ^ n)
  rw [hhigh, Nat.bit_val, Nat.mul_add] at hsplit
  rw [Container.withBit, Nat.bit_val, Nat.mul_add, Nat.mul_comm _ (2 ^ n), Nat.mul_comm _ (2 ^ n)]
  dsimp only
  omega

theorem hasBits_withBit {d : Container} {n : Nat} (hd : d.wf) (hn : n < d.size) (p : Bool) :
    HasBits (d.withBit n p) d.size fun j => if j = n then p else d.bit j := by
  refine hasBits_of_testBit (wf_withBit hd hn p) fun j => ?_
  rw [bits_withBit hn, Nat.testBit_two_pow_mul_add _ (Nat.mod_lt _ (Nat.two_pow_pos n)), bit_eq_testBit hd]
  obtain hj | rfl | hj := Nat.lt_trichotomy j n
  · rw [if_pos hj, if_neg hj.ne, Nat.testBit_mod_two_pow, decide_eq_true hj, Bool.true_and]
  · rw [if_neg (lt_irrefl j), if_pos rfl, Nat.sub_self, Nat.testBit_bit_zero]
  · obtain ⟨k, rfl⟩ := Nat.exists_eq_add_of_lt hj
    rw [if_neg (by omega), if_neg hj.ne', show n + k + 1 - n = k + 1 by omega, Nat.testBit_bit_succ, Nat.testBit_div_two_pow]
    congr 1; omega

/-- Every bit of the half-open range is b (R142). -/
theorem allIn_iff (x : Container) (lo hi : Nat) (b : Bool) :
    allIn x lo hi b = true ↔ ∀ j, lo ≤ j → j < hi → x.bit j = b := by
  simp only [allIn, List.all_eq_true, List.mem_range, beq_iff_eq]
  constructor
  · intro h j hlo hhi
    have := h (j - lo) (by omega)
    rwa [Nat.add_sub_cancel' hlo] at this
  · exact fun h i hi => h (lo + i) (Nat.le_add_right lo i) (by omega)

/-- Settles O20: the bits of `cat` and `rsHigh` are these by definition, those of `rsLow` in both its branches. -/
theorem containerIntegerLaws : Obligations.ContainerIntegerLaws := fun _ _ _ lo hi hx _ =>
  ⟨rfl, bits_rsLow_of_le, bits_rsLow_of_ge, rfl, fun _ => bits_sub hx lo hi⟩

/-! ### MSB-first texts -/

/-- Bit i of the number a bit string shows is its character i from the end (R14, R154). -/
theorem testBit_bitTextValue (t : List Byte) (i : Nat) : (bitTextValue t).testBit i = (t.reverse[i]? == some charOne) := by
  induction t using List.reverseRecOn generalizing i with
  | nil => simp [bitTextValue]
  | append_singleton t b ih =>
    rw [bitTextValue_append, List.reverse_concat, ← Nat.bit_val]
    cases i with
    | zero => rw [Nat.testBit_bit_zero]; simp
    | succ i => rw [Nat.testBit_bit_succ, ih, List.getElem?_cons_succ]

theorem getElem?_tinText (s : State) {c : Nat} (hc : c < s.tinLen.toNat) : s.tinText[c]? = some (s.tin.read c) := by
  simp [State.tinText, Memory.text, hc]

theorem showsTin_parseBits {s : State} (hlen : s.tinLen.toNat ≤ 256) : ShowsTin s (parseBits s.tinText) := by
  have hwf : (parseBits s.tinText).wf := wf_parseBits (length_tinText s ▸ hlen)
  refine ⟨length_tinText s, hwf, fun c hc => ?_⟩
  rw [bit_eq_testBit hwf, parseBits, testBit_bitTextValue, List.getElem?_reverse (by rw [length_tinText]; omega),
    length_tinText, show s.tinLen.toNat - 1 - (s.tinLen.toNat - 1 - c) = c by omega, getElem?_tinText s hc]
  rfl

/-- The character test of PARSE fails exactly when a character is neither '0' nor '1' (R154). -/
theorem not_isBitText_iff (s : State) : ¬isBitText s.tinText = true ↔ BadBit s := by
  simp [isBitText, BadBit, State.tinText, Memory.text, charZero, charOne]

/-- Character c of a rendered container is its bit size − 1 − c (R14). -/
theorem getD_text (x : Container) {c : Nat} (hc : c < x.size) :
    x.text.getD c 0 = if x.bit (x.size - 1 - c) then 0x31 else 0x30 := by
  simp [Container.text, hc, bitChar, charOne, charZero]

section Rendered

variable {s : State} {x : Container} (hlen : s.tinLen.toNat = x.size)
  (hread : ∀ c, c < x.size → s.tin.read c = if x.bit (x.size - 1 - c) then 0x31 else 0x30)
include hlen hread

theorem not_badBit_of_rendered : ¬BadBit s := by
  rintro ⟨c, hc, hne0, hne1⟩
  have hchar := hread c (hlen ▸ hc)
  split at hchar
  · exact hne1 hchar
  · exact hne0 hchar

theorem eq_of_showsTin_rendered (hx : x.wf) {y : Container} (hy : ShowsTin s y) : y = x := by
  obtain ⟨hsize, hwf, hbit⟩ := hy
  rw [hlen] at hsize hbit
  refine container_ext hwf hx hsize fun j hj => ?_
  have hj' : x.size - 1 - (x.size - 1 - j) = j := by omega
  have hchar := hbit (x.size - 1 - j) (by omega)
  rw [hread _ (by omega), hj'] at hchar
  rw [hchar]
  cases x.bit j <;> rfl

end Rendered

end Sys2Proof.Proofs
end

section
/-! The bit-container commands (40_bitcontainer.md R143 to R156): what each writes, and when it fails. -/

namespace Sys2Proof.Proofs

open Sys2Proof Sys2Proof.Machine Sys2Proof.Claims Sys2Proof.Laws

/-! ### How a command ends, as the statements say it -/

theorem wroteContainer_setC (cd : CReg) (s : State) (v : Container) : WroteContainer cd s (completeOk (s.setC cd v)) := by
  have hregs : SameRegsBut cd s (completeOk (s.setC cd v)) := fun k hk => getC_setC_other s v hk
  simp [WroteContainer, Succeeded, hregs, SameTout, SameResult, Unwritten]

theorem wroteBool_setBool (b : Bool) (s : State) : WroteBool b s (completeOk (s.setBool b)) := by
  simp [WroteBool, Succeeded, SameRegs, SameTout, Unwritten]

theorem wroteTout_putTout {x : List Byte} (hx : x.length ≤ 4096) (s : State) : WroteTout x s (completeOk (s.putTout x)) := by
  have htout : ToutHolds x (completeOk (s.putTout x)) := ⟨read_ofBytes x, Nat.mod_eq_of_lt (Nat.lt_of_le_of_lt hx (by decide))⟩
  simp [WroteTout, Succeeded, htout, SameRegs, SameResult, Unwritten]

section Ends

variable {i : Instr} {s : State}

theorem fails_of_error {e : ErrorCode} (h : exec i s = settle s (.error e)) : Fails i s e :=
  ⟨_, h, failed_raiseError e s⟩

theorem writes_container {cd : CReg} {v : Container} (h : exec i s = settle s (.ok (s.setC cd v))) :
    ∃ t, exec i s = .next t ∧ WroteContainer cd s t ∧ t.getC cd = v :=
  ⟨_, h, wroteContainer_setC cd s v, getC_setC_same s cd v⟩

theorem writes_bits {cd : CReg} {v : Container} {n : Nat} {f : Nat → Bool}
    (h : exec i s = settle s (.ok (s.setC cd v))) (hv : HasBits v n f) :
    ∃ t, exec i s = .next t ∧ WroteContainer cd s t ∧ HasBits (t.getC cd) n f := by
  obtain ⟨t, ht, hw, rfl⟩ := writes_container h
  exact ⟨t, ht, hw, hv⟩

/-- A command that writes a container of a given size writes its bits, or fails with CAPACITY (R143 to R145, R148 to R150). -/
theorem sizedWrite_spec {cd : CReg} {n : Nat} {v : Container} {f : Nat → Bool}
    (h : exec i s = settle s (sizedWrite s cd n v)) (hv : n ≤ 256 → HasBits v n f) :
    (n ≤ 256 → ∃ t, exec i s = .next t ∧ WroteContainer cd s t ∧ HasBits (t.getC cd) n f) ∧
      (256 < n → Fails i s .capacity) := by
  obtain ⟨hn, hok⟩ | ⟨hn, herr⟩ := sizedWrite_cases s cd n v
  · rw [hok] at h
    exact ⟨fun _ => writes_bits h (hv hn), fun hcap => absurd hn hcap.not_ge⟩
  · rw [herr] at h
    exact ⟨fun hle => absurd hle hn.not_ge, fun _ => fails_of_error h⟩

/-- A command on a bit range performs its write, or fails with CAPACITY, or else with RANGE (R151 to R153, R355). -/
theorem ranged_spec {lo hi : Nat} {u : State} (h : exec i s = settle s (ranged lo hi u)) :
    (lo ≤ hi → hi ≤ 256 → exec i s = settle s (.ok u)) ∧ (256 < hi → Fails i s .capacity) ∧
      (hi ≤ 256 → hi < lo → Fails i s .range) := by
  obtain ⟨hhi, hlo, hr⟩ | ⟨hhi, hr⟩ | ⟨hhi, hlo, hr⟩ := ranged_cases lo hi u <;> rw [hr] at h
  · exact ⟨fun _ _ => h, fun hcap => absurd hhi hcap.not_ge, fun _ hlt => absurd hlo hlt.not_ge⟩
  · exact ⟨fun _ hle => absurd hle hhi.not_ge, fun _ => fails_of_error h, fun hle => absurd hle hhi.not_ge⟩
  · exact ⟨fun hle => absurd hle hlo.not_ge, fun hcap => absurd hhi hcap.not_ge, fun _ _ => fails_of_error h⟩

end Ends

/-! ### Commands that fill a container -/

/-- What is known of every bit is known of the bits below the size. -/
theorem bit_below_of_hasBits {c : Container} {n : Nat} {f g : Nat → Bool} (h : HasBits c n f) (hfg : ∀ j, j < n → f j = g j) :
    c.wf ∧ c.size = n ∧ ∀ j, j < n → c.bit j = g j := by
  obtain ⟨hwf, hsize, hbit⟩ := h
  exact ⟨hwf, hsize, fun j hj => (hbit j).trans (hfg j hj)⟩

theorem fill_spec {i : Instr} {s : State} {cd : CReg} {n : Nat} {v : Container} {f : Nat → Bool} {b : Bool}
    (h : exec i s = settle s (sizedWrite s cd n v)) (hv : n ≤ 256 → HasBits v n f) (hb : ∀ j, j < n → f j = b) :
    (n ≤ 256 → ∃ t, exec i s = .next t ∧ WroteContainer cd s t ∧ (t.getC cd).wf ∧ (t.getC cd).size = n ∧
      ∀ j, j < n → (t.getC cd).bit j = b) ∧ (256 < n → Fails i s .capacity) := by
  obtain ⟨hok, hfail⟩ := sizedWrite_spec h hv
  refine ⟨fun hn => ?_, hfail⟩
  obtain ⟨t, ht, hw, hbits⟩ := hok hn
  exact ⟨t, ht, hw, bit_below_of_hasBits hbits hb⟩

/-- Settles O8: `zeros` and `onesC` hold their bit everywhere below their size. -/
theorem fillCommandsSetEveryBit : Obligations.FillCommandsSetEveryBit := by
  intro s cd n i b hi
  simp only [List.mem_cons, List.not_mem_nil, or_false, Prod.mk.injEq] at hi
  obtain ⟨rfl, rfl⟩ | ⟨rfl, rfl⟩ := hi
  · exact fill_spec rfl hasBits_zeros fun _ _ => rfl
  · exact fill_spec rfl hasBits_onesC fun _ => decide_eq_true

/-- DIN3 ++ DIN2 ++ DIN1 ++ DIN0 bit by bit (R43). -/
theorem testBit_din (s : State) (j : Nat) : s.din.testBit j = dinBit s j := by
  have hdin : s.din.testBit j = (s.din3 ++ s.din2 ++ s.din1 ++ s.din0).getLsbD j := rfl
  rw [hdin, BitVec.getLsbD_append, BitVec.getLsbD_append, BitVec.getLsbD_append, dinBit, Nat.sub_sub, Nat.sub_sub]
  grind

theorem hasBits_fromUnsigned (s : State) (tw : Nat) {n : Nat} (hn : n ≤ 256) :
    HasBits (fld n (s.din % 2 ^ tw)) n fun j => decide (j < n) && decide (j < tw) && dinBit s j := by
  refine hasBits_of_testBit (wf_fld _ hn) fun j => ?_
  rw [fld, Nat.testBit_mod_two_pow, Nat.testBit_mod_two_pow, testBit_din, Bool.and_assoc]

/-- Settles O9: the five commands are one, for their five widths. -/
theorem fromUnsignedPlacesDin : Obligations.FromUnsignedPlacesDin := by
  intro s cd n i tw hi
  have hfrom : exec i s = settle s (fromUnsigned s tw cd n) := by
    simp only [List.mem_cons, List.not_mem_nil, or_false, Prod.mk.injEq] at hi
    obtain ⟨rfl, rfl⟩ | ⟨rfl, rfl⟩ | ⟨rfl, rfl⟩ | ⟨rfl, rfl⟩ | ⟨rfl, rfl⟩ := hi <;> rfl
  exact sizedWrite_spec hfrom (hasBits_fromUnsigned s tw)

/-! ### Commands on containers -/

/-- Settles O10: below the size the bit read is the stored bit. -/
theorem getReadsOneBit : Obligations.GetReadsOneBit := by
  intro s ca n
  have hbit : (s.getC ca).bit n = if n < (s.getC ca).size then (s.getC ca).bits.testBit n else false := by
    split
    · next h => exact bit_of_lt h
    · next h => exact bit_of_ge (Nat.le_of_not_lt h)
  exact ⟨_, rfl, hbit ▸ wroteBool_setBool _ s⟩

/-- Settles O11: below the size the bit is replaced in a legal container, the others are kept by `hasBits_withBit`. -/
theorem setWritesOneBit : Obligations.SetWritesOneBit := by
  intro s cd n p h
  refine ⟨fun hn => writes_bits ?_ (hasBits_withBit (h.regs_wf cd) hn p), fun hn => fails_of_error ?_⟩
  · rw [exec, execSet, if_neg hn.not_ge]
  · rw [exec, execSet, if_pos hn]

/-- Settles O12: the sources are read before the destination is written, so they may coincide with it. -/
theorem concatPlacesHighAndLow : Obligations.ConcatPlacesHighAndLow := fun _ _ ca cb h =>
  sizedWrite_spec rfl (hasBits_cat (h.regs_wf ca) (h.regs_wf cb))

/-- Settles O13: both branches of `rsLow` move bit j + size − n to bit j. -/
theorem resizeLowKeepsHighEnd : Obligations.ResizeLowKeepsHighEnd := fun _ _ ca _ h =>
  sizedWrite_spec rfl (hasBits_rsLow (h.regs_wf ca))

/-- Settles O14: the remainder mod 2^n keeps the bits below n, and a legal source has none above its size. -/
theorem resizeHighKeepsLowEnd : Obligations.ResizeHighKeepsLowEnd := fun _ _ ca _ h =>
  sizedWrite_spec rfl (hasBits_rsHigh (h.regs_wf ca))

/-- Settles O15: the range checks come first, then the bits of the sub-range are written. -/
theorem getsubExtractsHalfOpenRange : Obligations.GetsubExtractsHalfOpenRange := by
  intro s cd ca lo hi
  obtain ⟨hok, hfail⟩ := ranged_spec (i := .getsub cd ca lo hi) (s := s) rfl
  refine ⟨fun hlo hhi => ?_, hfail⟩
  obtain ⟨t, ht, hw, hbits⟩ := writes_bits (hok hlo hhi) (hasBits_sub (s.getC ca) hhi)
  exact ⟨t, ht, hw, bit_below_of_hasBits hbits fun j hj => by rw [decide_eq_true hj, Bool.true_and]⟩

/-- Settles O16: the two commands are one, for the bit they ask for. -/
theorem rangeTestsEveryBit : Obligations.RangeTestsEveryBit := by
  intro s ca lo hi i b hmem
  have hrange : exec i s = settle s (ranged lo hi (s.setBool (allIn (s.getC ca) lo hi b))) := by
    simp only [List.mem_cons, List.not_mem_nil, or_false, Prod.mk.injEq] at hmem
    obtain ⟨rfl, rfl⟩ | ⟨rfl, rfl⟩ := hmem <;> rfl
  obtain ⟨hok, hfail⟩ := ranged_spec hrange
  exact ⟨fun hlo hhi => ⟨_, _, hok hlo hhi, wroteBool_setBool _ s, allIn_iff _ lo hi b⟩, hfail⟩

/-! ### Texts -/

/-- The end of PARSE and PARSE.N once the size is checked: the container the text shows, or BITS (R154, R155). -/
theorem parse_spec {i : Instr} {s : State} {cd : CReg} (hlen : s.tinLen.toNat ≤ 256)
    (h : exec i s = settle s (if ¬isBitText s.tinText then .error .bits else .ok (s.setC cd (parseBits s.tinText)))) :
    (¬BadBit s → ∃ t, exec i s = .next t ∧ WroteContainer cd s t ∧ ShowsTin s (t.getC cd)) ∧ (BadBit s → Fails i s .bits) := by
  constructor
  · intro hgood
    rw [if_neg (mt (not_isBitText_iff s).1 hgood)] at h
    obtain ⟨t, ht, hw, hget⟩ := writes_container h
    exact ⟨t, ht, hw, hget ▸ showsTin_parseBits hlen⟩
  · intro hbad
    rw [if_pos ((not_isBitText_iff s).2 hbad)] at h
    exact fails_of_error h

theorem execParse_spec (cd : CReg) {s : State} (hlen : s.tinLen.toNat ≤ 256) :
    (¬BadBit s → ∃ t, exec (.parse cd) s = .next t ∧ WroteContainer cd s t ∧ ShowsTin s (t.getC cd)) ∧
      (BadBit s → Fails (.parse cd) s .bits) :=
  parse_spec hlen (by rw [exec, execParse, if_neg hlen.not_gt])

theorem execParseN_spec (cd : CReg) {s : State} {n : Nat} (hn : n ≤ 256) (hlen : s.tinLen.toNat = n) :
    (¬BadBit s → ∃ t, exec (.parseN cd n) s = .next t ∧ WroteContainer cd s t ∧ ShowsTin s (t.getC cd)) ∧
      (BadBit s → Fails (.parseN cd n) s .bits) :=
  parse_spec (hlen.trans_le hn) (by rw [exec, execParseN, if_neg hn.not_gt, if_neg (not_not.2 hlen)])

/-- Settles O17: after the checks of the size both commands go on alike. -/
theorem parseReadsBitString : Obligations.ParseReadsBitString := by
  intro s cd n
  refine ⟨fun hlen => (execParse_spec cd hlen).1, fun hlen => fails_of_error ?_, fun hlen => (execParse_spec cd hlen).2,
    fun hn hlen => (execParseN_spec cd hn hlen).1, fun hn => fails_of_error ?_, fun hn hlen => fails_of_error ?_,
    fun hn hlen => (execParseN_spec cd hn hlen).2⟩
  · rw [exec, execParse, if_pos hlen]
  · rw [exec, execParseN, if_pos hn]
  · rw [exec, execParseN, if_neg hn.not_gt, if_pos hlen]

/-- Settles O18: the text of a legal container fits TOUT, so TOUT_LEN is its length. -/
theorem renderWritesMsbFirst : Obligations.RenderWritesMsbFirst := by
  intro s ca h
  obtain ⟨hsize, -⟩ := h.regs_wf ca
  have hlen : (s.getC ca).text.length ≤ 4096 := (length_text _).trans_le (hsize.trans (by decide))
  exact ⟨_, _, rfl, wroteTout_putTout hlen s, length_text _, fun _ => getD_text _⟩

/-- Settles O19: what RENDER wrote has no bad character, and the bits that PARSE shows of it are the container's. -/
theorem parseOfRenderedContainer : Obligations.ParseOfRenderedContainer := by
  intro s t u ca cd h hrender hparse
  obtain ⟨t', x, ht, ⟨-, ⟨hread, hlen⟩, -⟩, hx, hchar⟩ := renderWritesMsbFirst s ca h
  obtain rfl : t = t' := Host.Outcome.next.inj (hrender.symm.trans ht)
  have hsize : t.toutLen.toNat = (s.getC ca).size := hlen.trans hx
  have htin (c : Nat) (hc : c < (s.getC ca).size) := (hread c).trans (hchar c hc)
  obtain ⟨hok, -⟩ := execParse_spec cd (s := { t with tin := t.tout, tinLen := t.toutLen })
    (hsize.trans_le (h.regs_wf ca).1)
  obtain ⟨u', hu, ⟨⟨herr, -⟩, -⟩, hshows⟩ := hok (not_badBit_of_rendered hsize htin)
  obtain rfl : u = u' := Host.Outcome.next.inj (hparse.symm.trans hu)
  exact ⟨herr, eq_of_showsTin_rendered hsize htin (h.regs_wf ca) hshows⟩

end Sys2Proof.Proofs
end

section
/-! The field mux on a valid layout (R203 to R206), said in numbers: which fields are read from a pattern, and which number an
assembled pattern holds. A NaN pattern is assembled from fields as well (R236). -/

namespace Sys2Proof.Proofs

open Sys2Proof Sys2Proof.Machine Sys2Proof.Claims Sys2Proof.Laws

variable {l : Layout}

/-! ### The fields of a pattern -/

theorem expf_eq {p : Container} (hp : p.wf) : l.expf p = p.bits / 2 ^ l.mw % 2 ^ l.ew := by
  rw [Layout.expf, bits_sub hp, Nat.add_sub_cancel_left]

theorem manf_eq {p : Container} (hp : p.wf) : l.manf p = p.bits % 2 ^ l.mw := by
  rw [Layout.manf, bits_sub hp, pow_zero, Nat.div_one, Nat.sub_zero]

/-- The quiet flag is the top bit of the mantissa field (R239). -/
theorem quietFlag_iff {p : Container} (hp : p.wf) (hm : 2 ≤ l.mw) : p.bit (l.mw - 1) = true ↔ 2 ^ (l.mw - 1) ≤ l.manf p := by
  have hlt : l.manf p < 2 ^ (l.mw - 1 + 1) := by rw [Nat.sub_add_cancel (by omega)]; exact bitSum_lt _ _
  have hbit : p.bit (l.mw - 1) = (l.manf p).testBit (l.mw - 1) := by
    rw [manf_eq hp, Nat.testBit_mod_two_pow, decide_eq_true (by omega), Bool.true_and, bit_eq_testBit hp]
  rw [hbit]
  exact ⟨Nat.ge_two_pow_of_testBit, fun hle => Nat.testBit_of_two_pow_le_and_two_pow_add_one_gt hle hlt⟩

/-- The payload of a NaN is the mantissa field without its top and its lowest bit (R240). -/
theorem nanPayload_eq {p : Container} (hp : p.wf) (hm : 2 ≤ l.mw) :
    nanPayload l p = ⟨l.mw - 2, l.manf p / 2 % 2 ^ (l.mw - 2)⟩ := by
  have hbits : (nanPayload l p).bits = l.manf p / 2 % 2 ^ (l.mw - 2) := by
    have hpow : 2 ^ l.mw = 2 * 2 ^ (l.mw - 1) := by rw [← pow_succ', Nat.sub_add_cancel (by omega)]
    rw [nanPayload, bits_sub hp, manf_eq hp, hpow, Nat.mod_mul_right_div_self,
      Nat.mod_mod_of_dvd _ (Nat.pow_dvd_pow 2 (by omega)), pow_one, Nat.sub_sub]
  exact congrArg (Container.mk (l.mw - 2)) hbits

theorem onesE_lt : l.onesE < 2 ^ l.ew := Nat.sub_lt (Nat.two_pow_pos _) one_pos

theorem onesM_lt : l.onesM < 2 ^ l.mw := Nat.sub_lt (Nat.two_pow_pos _) one_pos

/-! ### The fields of an assembled pattern -/

section Pack

variable (hl : l.valid) (s : Bool) {e m : Nat} (he : e < 2 ^ l.ew) (hm : m < 2 ^ l.mw)
include he hm

/-- The sign bit, when there is a sign field, stands above the exponent and the exponent above the mantissa (R203, R206). -/
theorem bits_pack : (l.pack s e m).bits = 2 ^ l.mw * (2 ^ l.ew * (decide (l.sw = 1) && s).toNat + e) + m := by
  rw [Layout.pack]
  by_cases hs : l.sw = 1
  · simp only [hs, if_true, cat, fld, Nat.mod_eq_of_lt he, Nat.mod_eq_of_lt hm, decide_true, Bool.true_and,
      Nat.mod_eq_of_lt s.toNat_lt, pow_one]
    ring
  · simp only [hs, if_false, cat, fld, Nat.mod_eq_of_lt he, Nat.mod_eq_of_lt hm, decide_false, Bool.false_and,
      Bool.toNat_false]
    ring

include hl

theorem expf_pack : l.expf (l.pack s e m) = e := by
  rw [expf_eq (wf_pack hl s e m), bits_pack s he hm, Nat.mul_add_div (Nat.two_pow_pos _), Nat.div_eq_of_lt hm, Nat.add_zero,
    Nat.mul_add_mod, Nat.mod_eq_of_lt he]

theorem manf_pack : l.manf (l.pack s e m) = m := by
  rw [manf_eq (wf_pack hl s e m), bits_pack s he hm, Nat.mul_add_mod, Nat.mod_eq_of_lt hm]

theorem neg_pack : l.neg (l.pack s e m) = (decide (l.sw = 1) && s) := by
  by_cases hs : l.sw = 1
  · have htop : l.width - 1 = l.mw + l.ew := by rw [Layout.width]; omega
    rw [Layout.neg, htop, bit_eq_testBit (wf_pack hl s e m), bits_pack s he hm, Nat.testBit_two_pow_mul_add _ hm,
      if_neg (by omega), Nat.add_sub_cancel_left, Nat.testBit_two_pow_mul_add _ he, if_neg (lt_irrefl _), Nat.sub_self]
    cases s <;> simp [hs]
  · simp [Layout.neg, hs]

end Pack

/-! ### NaN patterns -/

/-- The mantissa field of a NaN pattern: the quiet flag, the payload in mw − 2 bits, and a 1 (R236). -/
def nanMantissa (l : Layout) (sig : Bool) (p : Container) : Nat :=
  (1 - sig.toNat) * 2 ^ (l.mw - 1) + p.bits % 2 ^ (l.mw - 2) * 2 + 1

section Nan

variable (hm : 2 ≤ l.mw) (sig : Bool) (p : Container)
include hm

/-- The field is no zero mantissa, its top bit is the quiet flag, and below that flag it holds the resized payload. -/
theorem nanMantissa_spec :
    nanMantissa l sig p ≠ 0 ∧ nanMantissa l sig p < 2 ^ l.mw ∧ (2 ^ (l.mw - 1) ≤ nanMantissa l sig p ↔ sig = false) ∧
      nanMantissa l sig p / 2 % 2 ^ (l.mw - 2) = p.bits % 2 ^ (l.mw - 2) := by
  obtain ⟨n, hn⟩ := Nat.exists_eq_add_of_le' hm
  have hpl := Nat.mod_lt p.bits (Nat.two_pow_pos n)
  rw [nanMantissa, hn, Nat.add_sub_cancel, show n + 2 - 1 = n + 1 by omega, pow_succ, pow_succ]
  generalize p.bits % 2 ^ n = pl at *
  have hhalf : ((1 - sig.toNat) * (2 ^ n * 2) + pl * 2 + 1) / 2 = 2 ^ n * (1 - sig.toNat) + pl := by
    cases sig <;> simp <;> omega
  refine ⟨Nat.succ_ne_zero _, ?_, ?_, by rw [hhalf, Nat.mul_add_mod, Nat.mod_eq_of_lt hpl]⟩ <;> cases sig <;> simp <;> omega

theorem constructNaN_eq_pack : constructNaN l sig p = l.pack false l.onesE (nanMantissa l sig p) := by
  have hbody : cat (cat (cat (onesC l.ew) (fld 1 (1 - sig.toNat))) (rsHigh p (l.mw - 2))) (fld 1 1) =
      cat (fld l.ew l.onesE) (fld l.mw (nanMantissa l sig p)) := by
    obtain ⟨-, hlt, -⟩ := nanMantissa_spec hm sig p
    obtain ⟨n, hn⟩ := Nat.exists_eq_add_of_le' hm
    have hq : 1 - sig.toNat < 2 := by omega
    simp only [cat, fld, onesC, rsHigh, Nat.mod_eq_of_lt hlt, Nat.mod_eq_of_lt onesE_lt, pow_one, Nat.mod_eq_of_lt hq,
      Nat.reduceMod]
    rw [nanMantissa, Layout.onesE, hn, Nat.add_sub_cancel, show n + 2 - 1 = n + 1 by omega]
    congr 1 <;> ring
  rw [constructNaN, Layout.pack, hbody]
  rfl

end Nan

end Sys2Proof.Proofs
end

section
/-! The classifier on a valid layout (R239 to R244), and what it says of the landmark patterns (42_special_values.md section 3). -/

namespace Sys2Proof.Proofs

open Sys2Proof Sys2Proof.Machine Sys2Proof.Claims Sys2Proof.Laws

variable {l : Layout}

/-- The classifier answers the class whose test holds: under a valid layout each test excludes those before it (R239, R244). -/
theorem classify_of_classTest (hl : l.valid) {p : Container} (hp : p.wf) {k : ClassCode}
    (h : ClassTest l (l.neg p) (l.expf p) (l.manf p) k) : classify l p = k := by
  obtain ⟨-, hew, hmw, -, hlo, hhi⟩ := hl
  have hE : 2 ^ 2 ≤ 2 ^ l.ew := Nat.pow_le_pow_right two_pos hew
  have hM : 2 ^ 2 ≤ 2 ^ l.mw := Nat.pow_le_pow_right two_pos hmw
  have hQ : 0 < 2 ^ (l.mw - 1) := Nat.two_pow_pos _
  rw [classify]
  simp only [quietFlag_iff hp hmw, Layout.onesE, Layout.onesM]
  generalize l.neg p = neg, l.expf p = e, l.manf p = m at *
  cases k <;> simp only [ClassTest] at h <;> grind

theorem classify_pack (hl : l.valid) (s : Bool) {e m : Nat} (he : e < 2 ^ l.ew) (hm : m < 2 ^ l.mw) {k : ClassCode}
    (h : ClassTest l (decide (l.sw = 1) && s) e m k) : classify l (l.pack s e m) = k :=
  classify_of_classTest hl (wf_pack hl s e m)
    (by rwa [neg_pack hl s he hm, expf_pack hl s he hm, manf_pack hl s he hm])

/-- The inverse property (42_special_values.md section 3). -/
theorem classify_construct (hl : l.valid) (v : SpecialValue) : classify l (construct l v) = classOf l v := by
  obtain ⟨-, hew, hmw, -, hlo, hhi⟩ := id hl
  have hE : 2 ^ 2 ≤ 2 ^ l.ew := Nat.pow_le_pow_right two_pos hew
  have hM : 2 ^ 2 ≤ 2 ^ l.mw := Nat.pow_le_pow_right two_pos hmw
  have hones := onesE_lt (l := l)
  have hfull := onesM_lt (l := l)
  have hsigned (s : Bool) : (decide (l.sw = 1) && s) = decide (s = true ∧ l.sw = 1) := by simp [Bool.and_comm]
  have hpos {e m : Nat} (he : e < 2 ^ l.ew) (hm : m < 2 ^ l.mw) {k : ClassCode} (h : ClassTest l false e m k) :
      classify l (l.pack false e m) = k := classify_pack hl false he hm (by rwa [Bool.and_false])
  cases v with
  | zero s =>
    refine classify_pack hl s (by omega) (by omega) ?_
    rw [classOf, hsigned]
    split <;> exact ⟨by simp [*], rfl, rfl⟩
  | infinity s =>
    refine classify_pack hl s hones (by omega) ?_
    rw [classOf, hsigned]
    split <;> exact ⟨by simp [*], rfl, rfl⟩
  | nan sig p =>
    obtain ⟨hne, hlt, hquiet, -⟩ := nanMantissa_spec hmw sig p
    rw [construct, constructNaN_eq_pack hmw]
    refine hpos hones hlt ?_
    cases sig with
    | false => exact ⟨rfl, hquiet.2 rfl⟩
    | true => exact ⟨rfl, hne, Nat.lt_of_not_le (mt hquiet.1 nofun)⟩
  | spsub | lsub | spnorm | lnorm | llt1 | one | sgt1 => exact hpos (by omega) (by omega) ⟨rfl, rfl, rfl⟩

/-- Settles O27: the fields of each landmark pattern pass the test of its class, and those of a NaN pattern hold its payload. -/
theorem classifyInvertsConstruct : Obligations.ClassifyInvertsConstruct := by
  intro l hl
  obtain ⟨-, -, hmw, -⟩ := id hl
  refine ⟨classify_construct hl, fun sig p => ?_⟩
  obtain ⟨-, hlt, -, hpayload⟩ := nanMantissa_spec hmw sig p
  rw [nanPayload_eq (wf_construct hl _) hmw, construct, constructNaN_eq_pack hmw, manf_pack hl false onesE_lt hlt, hpayload,
    rsHigh]

/-- Settles O28: the classifier tells landmark patterns apart, since their classes differ. -/
theorem landmarkPatternsAreDistinct : Obligations.LandmarkPatternsAreDistinct := by
  intro l p q hl vs
  have hclasses : vs.Pairwise fun v w => classOf l v ≠ classOf l w := by
    by_cases hs : l.sw = 1 <;> simp [vs, hs, classOf]
  refine hclasses.imp fun {v w} hne heq => hne ?_
  rw [← classify_construct hl v, heq, classify_construct hl w]

end Sys2Proof.Proofs
end

section
/-! The layout commands LSEL and LSET (41_layout.md R208 to R211). -/

namespace Sys2Proof.Proofs

open Sys2Proof Sys2Proof.Machine Sys2Proof.Claims Sys2Proof.Laws

theorem valid_iff_validRecord (l : Layout) : l.valid ↔ ValidRecord l.sw l.ew l.mw l.bias := by
  rw [Layout.valid, ValidRecord, Nat.le_one_iff_eq_zero_or_eq_one]

theorem wroteLayout_layout (s : State) (r : LayoutReg) : WroteLayout s (completeOk { s with lr := r }) := by
  have hregs : SameRegs s (completeOk { s with lr := r }) := fun _ => rfl
  simp [WroteLayout, Succeeded, hregs, SameTout, SameResult, Unwritten]

/-- A command that loads LR with a valid layout writes every field of it and nothing else (R37, R209, R210). -/
theorem loads_layout {i : Instr} {s : State} {l : Layout} {src : Nat} (h : exec i s = settle s (.ok { s with lr := .load l src }))
    (hl : l.valid) (hbias : l.bias < 2 ^ 32) (hsrc : src < 16) :
    ∃ t, exec i s = .next t ∧ WroteLayout s t ∧ t.lr.valid = true ∧ t.lr.sw.toNat = l.sw ∧ t.lr.ew.toNat = l.ew ∧
      t.lr.mw.toNat = l.mw ∧ t.lr.bias.toNat = l.bias ∧ t.lr.src.toNat = src := by
  obtain ⟨hsw, hew, hmw, hb⟩ := Layout.mk.inj (layout_load hl hbias src)
  exact ⟨_, h, wroteLayout_layout s _, rfl, hsw, hew, hmw, hb, Nat.mod_eq_of_lt hsrc⟩

/-- Settles O22: the record of LSET's operands is valid exactly when the numbers satisfy R211. -/
theorem lsetLoadsValidRecord : Obligations.LsetLoadsValidRecord := by
  intro s sw ew mw
  rw [← valid_iff_validRecord ⟨sw.toNat, ew, mw, s.din0.toNat⟩]
  refine ⟨fun hl => ?_, fun hl => fails_of_error (congrArg (settle s) (if_neg hl))⟩
  obtain ⟨t, ht, hw, hv, hsw, hew, hmw, hb, hsrc⟩ :=
    loads_layout (i := .lset sw ew mw) (congrArg (settle s) (if_pos hl)) hl s.din0.isLt (by decide)
  exact ⟨t, ht, hw, hv, Function.LeftInverse.injective Bool.ofNat_toNat hsw, hew, hmw, BitVec.eq_of_toNat_eq hb, hsrc⟩

theorem exec_lsel_of_some {s : State} {idx : Nat} {l : Layout} (h : layoutRom[idx]? = some l) :
    exec (.lsel idx) s = settle s (.ok { s with lr := .load l idx }) := by
  rw [exec, execLsel, h]

theorem exec_lsel_of_none {s : State} {idx : Nat} (h : layoutRom[idx]? = none) :
    exec (.lsel idx) s = settle s (.error .layout) := by
  rw [exec, execLsel, h]

/-- Settles O21: the listed records are those of `layoutRom`, which are all valid. -/
theorem lselLoadsRomEntry : Obligations.LselLoadsRomEntry := by
  intro s idx
  refine ⟨fun sw ew mw bias hentry => ?_, fun hidx => fails_of_error (exec_lsel_of_none (List.getElem?_eq_none hidx))⟩
  change (layoutRom.map fun l => (l.sw, l.ew, l.mw, l.bias))[idx]? = _ at hentry
  rw [List.getElem?_map, Option.map_eq_some_iff] at hentry
  obtain ⟨l, hrom, hl⟩ := hentry
  cases hl
  obtain ⟨hidx, hget⟩ := List.getElem?_eq_some_iff.1 hrom
  obtain ⟨hvalid, hbias⟩ := rom_valid l (hget ▸ List.getElem_mem hidx)
  exact loads_layout (exec_lsel_of_some hrom) hvalid hbias (Nat.lt_trans hidx (by decide))

end Sys2Proof.Proofs
end

section
/-! The special-value commands CONSTRUCT and CLASSIFY (42_special_values.md R234 to R242), and RESULT (R47), which shows the
class that CLASSIFY names. -/

namespace Sys2Proof.Proofs

open Sys2Proof Sys2Proof.Machine Sys2Proof.Claims Sys2Proof.Laws

variable {l : Layout}

/-! ### Landmark patterns as numbers -/

/-- An assembled pattern in numbers: the sign part, and the exponent above the mantissa (R206). -/
theorem pack_eq (hl : l.valid) (s : Bool) {e m n : Nat} (he : e < 2 ^ l.ew) (hm : m < 2 ^ l.mw)
    (hn : signPart l s + e * 2 ^ l.mw + m = n) : l.pack s e m = ⟨l.sw + l.ew + l.mw, n⟩ := by
  obtain ⟨hsw, -⟩ := hl
  have hbits : (l.pack s e m).bits = n := by
    rw [← hn, bits_pack s he hm, signPart, pow_add]
    by_cases hs : l.sw = 1
    · cases s <;> simp [hs] <;> ring
    · simp [hs, Nat.mul_comm]
  exact congrArg₂ Container.mk (pack_size hsw s e m) hbits

/-- The number of a landmark's pattern (R234 to R237). -/
def landmarkBits (l : Layout) : SpecialValue → Nat
  | .zero s => signPart l s
  | .infinity s => signPart l s + (2 ^ l.ew - 1) * 2 ^ l.mw
  | .nan sig p => (2 ^ l.ew - 1) * 2 ^ l.mw + (1 - sig.toNat) * 2 ^ (l.mw - 1) + p.bits % 2 ^ (l.mw - 2) * 2 + 1
  | .spsub => 1
  | .lsub => 2 ^ l.mw - 1
  | .spnorm => 2 ^ l.mw
  | .lnorm => (2 ^ l.ew - 2) * 2 ^ l.mw + (2 ^ l.mw - 1)
  | .llt1 => (l.bias - 1) * 2 ^ l.mw + (2 ^ l.mw - 1)
  | .one => l.bias * 2 ^ l.mw
  | .sgt1 => l.bias * 2 ^ l.mw + 1

/-- The constructor builds the pattern of that number: each landmark is assembled from fields that fit (R233 to R237). -/
theorem construct_eq (hl : l.valid) (v : SpecialValue) : construct l v = ⟨l.sw + l.ew + l.mw, landmarkBits l v⟩ := by
  obtain ⟨-, hew, hmw, -, hlo, hhi⟩ := id hl
  have hE : 2 ^ 2 ≤ 2 ^ l.ew := Nat.pow_le_pow_right two_pos hew
  have hM : 2 ^ 2 ≤ 2 ^ l.mw := Nat.pow_le_pow_right two_pos hmw
  have hones := onesE_lt (l := l)
  have hfull := onesM_lt (l := l)
  have hpos : signPart l false = 0 := by simp [signPart]
  cases v with
  | zero s => exact pack_eq hl s (by omega) (by omega) (by rw [landmarkBits, Nat.zero_mul]; rfl)
  | infinity s => exact pack_eq hl s hones (by omega) rfl
  | nan sig p =>
    obtain ⟨-, hlt, -⟩ := nanMantissa_spec hmw sig p
    rw [construct, constructNaN_eq_pack hmw]
    exact pack_eq hl false hones hlt (by rw [hpos, Layout.onesE, nanMantissa, landmarkBits]; ring)
  | lsub => exact pack_eq hl false (by omega) hfull (by rw [hpos, Layout.onesM, landmarkBits]; omega)
  | lnorm | llt1 => exact pack_eq hl false (by omega) hfull (by rw [hpos, Nat.zero_add]; rfl)
  | spsub | spnorm | one | sgt1 => exact pack_eq hl false (by omega) (by omega) (by rw [hpos, landmarkBits]; omega)

/-! ### CONSTRUCT -/

/-- A CONSTRUCT command writes the pattern of its landmark, or fails with LAYOUT (R238). -/
theorem constructTo_spec {i : Instr} {s : State} {cd : CReg} {v : SpecialValue} {bits : Nat} (h : s.Inv)
    (hi : exec i s = settle s (constructTo s cd v)) (hbits : landmarkBits s.lr.layout v = bits) :
    (s.lr.valid = true → ∃ t, exec i s = .next t ∧ WroteContainer cd s t ∧
      t.getC cd = ⟨s.lr.layout.sw + s.lr.layout.ew + s.lr.layout.mw, bits⟩) ∧
      (s.lr.valid = false → Fails i s .layout) := by
  obtain ⟨hv, hok⟩ | ⟨hv, herr⟩ := constructTo_cases s cd v
  · rw [hok, construct_eq (layout_valid_of_inv h hv), hbits] at hi
    exact ⟨fun _ => writes_container hi, fun hinvalid => absurd (hv.symm.trans hinvalid) nofun⟩
  · rw [herr] at hi
    exact ⟨fun hvalid => absurd (hv.symm.trans hvalid) nofun, fun _ => fails_of_error hi⟩

/-- Settles O25: each command of the list builds its landmark, whose number is the one listed. -/
theorem constructBuildsLandmark : Obligations.ConstructBuildsLandmark := by
  rintro s cd ca b l i bits h rfl hi
  simp only [List.mem_cons, List.not_mem_nil, or_false, Prod.mk.injEq] at hi
  obtain ⟨rfl, rfl⟩ | ⟨rfl, rfl⟩ | ⟨rfl, rfl⟩ | ⟨rfl, rfl⟩ | ⟨rfl, rfl⟩ | ⟨rfl, rfl⟩ | ⟨rfl, rfl⟩ | ⟨rfl, rfl⟩ | ⟨rfl, rfl⟩ |
    ⟨rfl, rfl⟩ := hi <;> exact constructTo_spec h rfl rfl

/-! ### The class a pattern has -/

/-- Some class test holds: fields that pass no test of a landmark pass that of NONE (R239). -/
theorem exists_classTest (l : Layout) (neg : Bool) (e m : Nat) : ∃ k, ClassTest l neg e m k := by
  refine not_forall_not.1 fun hno => hno .none ⟨fun he => ?_, fun ⟨he, hm⟩ => ?_, ?_⟩
  · by_cases hm : m = 0
    · cases neg with
      | false => exact hno .infPos ⟨rfl, he, hm⟩
      | true => exact hno .infNeg ⟨rfl, he, hm⟩
    · obtain hq | hq := Nat.lt_or_ge m (2 ^ (l.mw - 1))
      · exact hno .nanSignaling ⟨he, hm, hq⟩
      · exact hno .nanQuiet ⟨he, hq⟩
  · cases neg with
    | false => exact hno .zeroPos ⟨rfl, he, hm⟩
    | true => exact hno .zeroNeg ⟨rfl, he, hm⟩
  · cases neg with
    | true => exact .inl rfl
    | false =>
      exact .inr ⟨fun ⟨he, hm⟩ => hm.elim (fun h1 => hno .spsub ⟨rfl, he, h1⟩) fun h1 => hno .lsub ⟨rfl, he, h1⟩,
        fun ⟨he, hm⟩ => hno .spnorm ⟨rfl, he, hm⟩, fun ⟨he, hm⟩ => hno .lnorm ⟨rfl, he, hm⟩,
        fun ⟨he, hm⟩ => hno .llt1 ⟨rfl, he, hm⟩,
        fun ⟨he, hm⟩ => hm.elim (fun h0 => hno .one ⟨rfl, he, h0⟩) fun h1 => hno .sgt1 ⟨rfl, he, h1⟩⟩

/-- The class that the classifier names passes its test (R239). -/
theorem classTest_classify (hl : l.valid) {p : Container} (hp : p.wf) :
    ClassTest l (l.neg p) (l.expf p) (l.manf p) (classify l p) := by
  obtain ⟨k, hk⟩ := exists_classTest l (l.neg p) (l.expf p) (l.manf p)
  rwa [classify_of_classTest hl hp hk]

theorem classify_eq_iff (hl : l.valid) {p : Container} (hp : p.wf) (k : ClassCode) :
    classify l p = k ↔ ClassTest l (l.neg p) (l.expf p) (l.manf p) k :=
  ⟨fun h => h ▸ classTest_classify hl hp, classify_of_classTest hl hp⟩

/-- The classes that carry a payload are those of an all-ones exponent and a mantissa other than 0 (R239, R240). -/
theorem isNaN_iff_of_classTest (hl : l.valid) {neg : Bool} {e m : Nat} {k : ClassCode} (h : ClassTest l neg e m k) :
    k.isNaN = true ↔ e = 2 ^ l.ew - 1 ∧ m ≠ 0 := by
  obtain ⟨-, hew, hmw, -, hlo, hhi⟩ := hl
  have hE : 2 ^ 2 ≤ 2 ^ l.ew := Nat.pow_le_pow_right two_pos hew
  have hQ : 0 < 2 ^ (l.mw - 1) := Nat.two_pow_pos _
  cases k <;> simp only [ClassTest, ClassCode.isNaN] at h ⊢ <;> grind

theorem neg_eq_negOf {p : Container} (hp : p.wf) : l.neg p = negOf l p.bits := by
  rw [Layout.neg, negOf, bit_eq_testBit hp, Layout.width]
  by_cases hs : l.sw = 1
  · rw [hs, show 1 + l.ew + l.mw - 1 = l.ew + l.mw by omega]; rfl
  · simp [hs]

/-! ### CLASSIFY -/

section PutClass

variable (s : State) (cd : CReg) (p : Container)

theorem resultClass_putClass : (putClass s l cd p).resultClass = classify l p := by
  rw [putClass]
  split <;> rfl

theorem getC_putClass : (putClass s l cd p).getC cd = if (classify l p).isNaN then nanPayload l p else s.getC cd := by
  rw [putClass]
  split
  · exact getC_setC_same _ cd _
  · rfl

/-- CLASSIFY writes RESULT.CLASS, possibly c[CD], and nothing else (R242). -/
theorem putClass_frame :
    Succeeded s (completeOk (putClass s l cd p)) ∧ (putClass s l cd p).resultBool = s.resultBool ∧
      SameRegsBut cd s (putClass s l cd p) ∧ (putClass s l cd p).lr = s.lr ∧ SameTout s (putClass s l cd p) ∧
      Unwritten s (putClass s l cd p) := by
  rw [putClass]
  split
  · have hregs : SameRegsBut cd s ((s.setClass (classify l p)).setC cd (nanPayload l p)) :=
      fun k hk => getC_setC_other (s.setClass _) _ hk
    simp [Succeeded, hregs, SameTout, Unwritten]
  · simp [Succeeded, SameRegsBut, SameTout, Unwritten]

end PutClass

section Exec

variable {s : State} {cd ca : CReg}

theorem exec_classify_of_invalid (hv : s.lr.valid = false) : exec (.classify cd ca) s = settle s (.error .layout) := by
  rw [exec, execClassify, layoutOr_invalid hv]

theorem exec_classify_of_size_ne (hv : s.lr.valid = true) (hsize : (s.getC ca).size ≠ s.lr.layout.width) :
    exec (.classify cd ca) s = settle s (.error .length) := by
  rw [exec, execClassify, layoutOr_valid hv]
  exact congrArg (settle s) (if_pos hsize)

theorem exec_classify_of_size_eq (hv : s.lr.valid = true) (hsize : (s.getC ca).size = s.lr.layout.width) :
    exec (.classify cd ca) s = .next (completeOk (putClass s s.lr.layout cd (s.getC ca))) := by
  rw [exec, execClassify, layoutOr_valid hv]
  exact congrArg (settle s) (if_neg (not_not.2 hsize))

end Exec

/-- Settles O26: the class is the one whose test holds, and a NaN's payload is part of its mantissa field. -/
theorem classifyNamesLandmark : Obligations.ClassifyNamesLandmark := by
  rintro s cd ca l x h rfl rfl
  refine ⟨fun hv hsize => ?_, fun hv => fails_of_error (exec_classify_of_invalid hv),
    fun hv hsize => fails_of_error (exec_classify_of_size_ne hv hsize)⟩
  have hl := layout_valid_of_inv h hv
  have hp := h.regs_wf ca
  obtain ⟨-, -, hmw, -⟩ := id hl
  obtain ⟨hsucceeded, hbool, hregs, hlr, htout, hunwritten⟩ := putClass_frame (l := s.lr.layout) s cd (s.getC ca)
  have hneg := neg_eq_negOf (l := s.lr.layout) hp
  have hexp : s.lr.layout.expf (s.getC ca) = expOf s.lr.layout (s.getC ca).bits := expf_eq hp
  have hman : s.lr.layout.manf (s.getC ca) = manOf s.lr.layout (s.getC ca).bits := manf_eq hp
  have hnan := isNaN_iff_of_classTest hl (classTest_classify hl hp)
  have hget := getC_putClass (l := s.lr.layout) s cd (s.getC ca)
  rw [hexp, hman] at hnan
  rw [nanPayload_eq hp hmw, hman] at hget
  refine ⟨_, exec_classify_of_size_eq hv hsize, hsucceeded, hbool, fun k => ?_, fun hn => ?_, fun hn => ?_, hregs, hlr, htout,
    hunwritten⟩
  · rw [completeOk_resultClass, resultClass_putClass, classify_eq_iff hl hp, hneg, hexp, hman]
  · exact hget.trans (if_pos (hnan.2 hn))
  · exact hget.trans (if_neg (mt hnan.1 hn))

/-! ### RESULT -/

/-- The number that RESULT reads as: its fields fit theirs (R47). -/
theorem resultWord_toNat (s : State) : (resultWord s).toNat = s.resultBool.toNat + s.resultClass.code * 2 ^ 8 := by
  have hbool := s.resultBool.toNat_lt
  have hcode : s.resultClass.code < 16 := by cases s.resultClass <;> decide
  exact Nat.mod_eq_of_lt (by omega)

/-- Settles O55: the listed numbers are the codes of the classes. -/
theorem resultShowsBoolAndClassCode : Obligations.ResultShowsBoolAndClassCode := by
  intro s k c hmem hk hidle hr
  have hcode : s.resultClass.code = c := by
    have htable : ∀ p ∈ [(ClassCode.zeroNeg, 0), (.zeroPos, 1), (.infNeg, 2), (.infPos, 3), (.nanQuiet, 4),
      (.nanSignaling, 5), (.spsub, 6), (.lsub, 7), (.spnorm, 8), (.lnorm, 9), (.llt1, 10), (.one, 11), (.sgt1, 12),
      (.none, 15)], p.1.code = p.2 := by decide
    rw [hk]; exact htable _ hmem
  refine shows_of_idle hidle hr rfl ?_
  change (resultWord s).toNat = _
  rw [resultWord_toNat, hcode, Nat.mul_comm]
  rfl

end Sys2Proof.Proofs
end

section
/-! The text front end of ENCODE (43_encode.md R272 to R274): normalization, the substring test, and the parser. -/

namespace Sys2Proof.Proofs

open Sys2Proof Sys2Proof.Machine Sys2Proof.Claims Sys2Proof.Laws

/-! ### Normalization -/

theorem isTrimByte_iff (b : Byte) : isTrimByte b = true ↔ b ∈ ([0x20, 0x09, 0x0A, 0x0B, 0x0C, 0x0D] : List Byte) := by
  simp [isTrimByte, or_assoc]

theorem trim_eq_rdropWhile (t : List Byte) : trim t = (t.dropWhile isTrimByte).rdropWhile isTrimByte := rfl

/-- What trim removes, before and after the text it keeps. -/
theorem append_trim_append (t : List Byte) :
    t.takeWhile isTrimByte ++ trim t ++ (t.dropWhile isTrimByte).rtakeWhile isTrimByte = t := by
  rw [trim_eq_rdropWhile, List.append_assoc, List.rdropWhile_append_rtakeWhile, List.takeWhile_append_dropWhile]

theorem head?_trim {t : List Byte} {b : Byte} (h : (trim t).head? = some b) : isTrimByte b = false := by
  have hdrop : (t.dropWhile isTrimByte).head? = some b := by
    rw [← List.rdropWhile_append_rtakeWhile (p := isTrimByte) (l := t.dropWhile isTrimByte), ← trim_eq_rdropWhile,
      List.head?_append, h, Option.some_or]
  simpa only [hdrop] using List.head?_dropWhile_not isTrimByte t

theorem getLast?_trim {t : List Byte} {b : Byte} (h : (trim t).getLast? = some b) : isTrimByte b = false := by
  rw [trim, List.getLast?_reverse] at h
  simpa only [h] using List.head?_dropWhile_not isTrimByte (t.dropWhile isTrimByte).reverse

/-- Settles O29: the middle part is what `trim` keeps; the case folding maps each of its bytes alone. -/
theorem normalizeTrimsAndFolds : Obligations.NormalizeTrimsAndFolds := by
  intro t
  refine ⟨_, trim t, _, (append_trim_append t).symm, fun b hb => ?_, fun b hb => ?_, List.length_map _, fun i b hb => ?_⟩
  · obtain hb | hb := List.mem_append.1 hb
    · exact (isTrimByte_iff b).1 (List.mem_takeWhile_imp hb)
    · exact (isTrimByte_iff b).1 (List.mem_rtakeWhile_imp hb)
  · rw [← isTrimByte_iff, Bool.not_eq_true]
    exact hb.elim head?_trim getLast?_trim
  · rw [Machine.normalize, List.getElem?_map, hb]
    rfl

/-! ### The substring test -/

theorem contains_iff (t s : List Byte) : contains t s = true ↔ s <:+: t := by
  induction t with
  | nil => rw [contains, List.isPrefixOf_iff_prefix, List.prefix_nil, List.infix_nil]
  | cons b t ih => rw [contains, Bool.or_eq_true, List.isPrefixOf_iff_prefix, ih, List.infix_cons_iff]

/-! ### The parser -/

theorem startsMinus_iff (u : List Byte) : startsMinus u = decide (u.head? = some 0x2D) := by
  rw [startsMinus, charMinus, beq_eq_decide]

theorem allDigits_iff (x : List Byte) : AllDigits x ↔ ∀ c ∈ x, isDigit c = true := by simp [AllDigits, isDigit]

/-- The parser's running value of a digit string is the positional one (R274). -/
theorem decimalValue_eq (ds : List Byte) : decimalValue ds = digitsValue ds := by
  have hfold : ∀ v, ds.foldl (fun v b => 10 * v + (b.toNat - 0x30)) v = v * 10 ^ ds.length + digitsValue ds := by
    induction ds with
    | nil => simp [digitsValue]
    | cons d ds ih => intro v; rw [List.foldl_cons, ih, digitsValue, List.length_cons, pow_succ]; ring
  rw [decimalValue, hfold, Nat.zero_mul, Nat.zero_add]

/-- An unsigned numeral of R274 with the digits a before its point and b after it. -/
def IsUnsigned (r a b : List Byte) : Prop :=
  AllDigits (a ++ b) ∧ (a ≠ [] ∨ b ≠ []) ∧ (r = a ++ 0x2E :: b ∨ (b = [] ∧ r = a))

theorem isNumeral_iff (u : List Byte) (neg : Bool) (a b : List Byte) :
    IsNumeral u neg a b ↔ ∃ sg r, ((neg = true ∧ sg = [0x2D]) ∨ (neg = false ∧ (sg = [] ∨ sg = [0x2B]))) ∧ u = sg ++ r ∧
      IsUnsigned r a b := by
  constructor
  · rintro ⟨hdigits, hne, sg, hsg, rfl | ⟨hb, rfl⟩⟩
    · exact ⟨sg, _, hsg, rfl, hdigits, hne, .inl rfl⟩
    · exact ⟨sg, _, hsg, rfl, hdigits, hne, .inr ⟨hb, rfl⟩⟩
  · rintro ⟨sg, r, hsg, rfl, hdigits, hne, rfl | ⟨hb, rfl⟩⟩
    · exact ⟨hdigits, hne, sg, hsg, .inl rfl⟩
    · exact ⟨hdigits, hne, sg, hsg, .inr ⟨hb, rfl⟩⟩

theorem splitNumeral_of_isUnsigned {r a b : List Byte} (h : IsUnsigned r a b) : splitNumeral r = some (a, b) := by
  obtain ⟨hdigits, hne, hr⟩ := h
  rw [allDigits_iff, List.forall_mem_append] at hdigits
  obtain ⟨ha, hb⟩ := hdigits
  obtain rfl | ⟨rfl, rfl⟩ := hr
  · have hpoint : ¬isDigit charPoint = true := by decide
    change splitNumeral (a ++ charPoint :: b) = _
    simp only [splitNumeral, List.takeWhile_append_of_pos ha, List.dropWhile_append_of_pos ha,
      List.takeWhile_cons_of_neg hpoint, List.dropWhile_cons_of_neg hpoint, List.append_nil]
    exact if_pos ⟨trivial, List.all_eq_true.2 hb, by tauto⟩
  · have hdrop : r.dropWhile isDigit = [] := List.dropWhile_eq_nil_iff.2 ha
    simp only [splitNumeral, List.takeWhile_eq_self_iff.2 ha, hdrop]
    exact if_neg (hne.resolve_right (not_not_intro rfl))

theorem isUnsigned_of_splitNumeral {r a b : List Byte} (h : splitNumeral r = some (a, b)) : IsUnsigned r a b := by
  have hr := List.takeWhile_append_dropWhile (p := isDigit) (l := r)
  have hdigits : ∀ c ∈ r.takeWhile isDigit, isDigit c = true := fun _ => List.mem_takeWhile_imp
  rw [splitNumeral] at h
  generalize r.takeWhile isDigit = a' at *
  cases hrest : r.dropWhile isDigit with
  | nil =>
    rw [hrest, List.append_nil] at hr
    simp only [hrest, Option.ite_none_left_eq_some, Option.some.injEq, Prod.mk.injEq] at h
    obtain ⟨hne, rfl, rfl⟩ := h
    exact ⟨by rwa [List.append_nil, allDigits_iff], .inl hne, .inr ⟨rfl, hr.symm⟩⟩
  | cons c b' =>
    rw [hrest] at hr
    simp only [hrest, Option.ite_none_right_eq_some, Option.some.injEq, Prod.mk.injEq, List.all_eq_true] at h
    obtain ⟨⟨rfl, hb, hne⟩, rfl, rfl⟩ := h
    exact ⟨by rw [allDigits_iff, List.forall_mem_append]; exact ⟨hdigits, hb⟩, by tauto, .inl hr.symm⟩

/-- An unsigned numeral is digits and points. -/
theorem mem_of_isUnsigned {r a b : List Byte} (h : IsUnsigned r a b) {c : Byte} (hc : c ∈ r) :
    isDigit c = true ∨ c = charPoint := by
  obtain ⟨hdigits, -, hr⟩ := h
  rw [allDigits_iff, List.forall_mem_append] at hdigits
  obtain ⟨ha, hb⟩ := hdigits
  obtain rfl | ⟨-, rfl⟩ := hr
  · obtain hc | hc := List.mem_append.1 hc
    · exact .inl (ha c hc)
    · obtain rfl | hc := List.mem_cons.1 hc
      · exact .inr rfl
      · exact .inl (hb c hc)
  · exact .inl (ha c hc)

/-- An unsigned numeral starts with no sign, so `dropSign` takes nothing of it. -/
theorem dropSign_of_isUnsigned {r a b : List Byte} (h : IsUnsigned r a b) : dropSign r = r ∧ startsMinus r = false := by
  cases r with
  | nil => exact ⟨rfl, rfl⟩
  | cons c r =>
    have hminus : c ≠ charMinus := by rintro rfl; exact absurd (mem_of_isUnsigned h List.mem_cons_self) (by decide)
    have hplus : c ≠ charPlus := by rintro rfl; exact absurd (mem_of_isUnsigned h List.mem_cons_self) (by decide)
    simp [dropSign, startsMinus, hminus, hplus]

/-- A numeral is an optional sign, which the parser drops, and an unsigned numeral, which it splits at the point. -/
theorem isNumeral_iff_splitNumeral (u : List Byte) (neg : Bool) (a b : List Byte) :
    IsNumeral u neg a b ↔ startsMinus u = neg ∧ splitNumeral (dropSign u) = some (a, b) := by
  rw [isNumeral_iff]
  constructor
  · rintro ⟨sg, r, hsg, rfl, h⟩
    obtain ⟨hdrop, hstart⟩ := dropSign_of_isUnsigned h
    have hsplit := splitNumeral_of_isUnsigned h
    obtain ⟨rfl, rfl⟩ | ⟨rfl, rfl | rfl⟩ := hsg
    · exact ⟨rfl, hsplit⟩
    · exact ⟨hstart, by rwa [List.nil_append, hdrop]⟩
    · exact ⟨rfl, hsplit⟩
  · rintro ⟨rfl, h⟩
    have hr := isUnsigned_of_splitNumeral h
    cases u with
    | nil => exact ⟨[], _, .inr ⟨rfl, .inl rfl⟩, rfl, hr⟩
    | cons c r =>
      by_cases hminus : c = charMinus
      · subst hminus
        exact ⟨[0x2D], r, .inl ⟨rfl, rfl⟩, rfl, hr⟩
      · have hstart : startsMinus (c :: r) = false := by simpa [startsMinus] using hminus
        by_cases hplus : c = charPlus
        · subst hplus
          exact ⟨[0x2B], r, .inr ⟨rfl, .inr rfl⟩, rfl, hr⟩
        · have hdrop : dropSign (c :: r) = c :: r := by simp [dropSign, hminus, hplus]
          exact ⟨[], c :: r, .inr ⟨hstart, .inl rfl⟩, rfl, hdrop ▸ hr⟩

/-- The parser's answer for a numeral with the digits a and b, over the denominator 10^|b| (R274). -/
def numeralDecimal (a b : List Byte) : Decimal := ⟨digitsValue a * 10 ^ b.length + digitsValue b, 10 ^ b.length⟩

theorem numeralDecimal_value (a b : List Byte) :
    ((numeralDecimal a b).num : ℚ) / (numeralDecimal a b).den = numeralValue a b := by
  have hden : (10 : ℚ) ^ b.length ≠ 0 := by positivity
  rw [numeralDecimal, numeralValue]
  push_cast
  rw [add_div, mul_div_cancel_right₀ _ hden]

theorem numeralDecimal_den_pos (a b : List Byte) : 0 < (numeralDecimal a b).den := pow_pos (by decide) _

theorem parseDecimal_eq_some_iff (u : List Byte) (x : Decimal) :
    parseDecimal u = some x ↔ ∃ neg a b, IsNumeral u neg a b ∧ x = numeralDecimal a b := by
  simp only [isNumeral_iff_splitNumeral, parseDecimal, decimalValue_eq]
  cases splitNumeral (dropSign u) with
  | none => simp
  | some p =>
    obtain ⟨a, b⟩ := p
    simp [numeralDecimal, eq_comm]

/-- Settles O30: the parser's answer is determined by its denominator and its value. -/
theorem parserAcceptsExactlyTheGrammar : Obligations.ParserAcceptsExactlyTheGrammar := by
  intro u x
  rw [parseDecimal_eq_some_iff]
  refine exists₃_congr fun neg a b => and_congr_right fun _ => ?_
  constructor
  · rintro rfl
    exact ⟨rfl, numeralDecimal_value a b⟩
  · obtain ⟨num, den⟩ := x
    rintro ⟨rfl, hvalue⟩
    have hden : ((10 ^ b.length : Nat) : ℚ) ≠ 0 := by positivity
    rw [← numeralDecimal_value, numeralDecimal, div_left_inj' hden, Nat.cast_inj] at hvalue
    exact congrArg (Decimal.mk · _) hvalue

end Sys2Proof.Proofs
end

section
/-! The command ENCODE (43_encode.md R271, R284), its literal tokens (R273), and the text that is a numeral (R274). -/

namespace Sys2Proof.Proofs

open Sys2Proof Sys2Proof.Machine Sys2Proof.Claims Sys2Proof.Laws

variable {l : Layout} {t : List Byte}

/-! ### What the encoder answers -/

theorem encodeText_of_inf (h : infBytes <:+: Machine.normalize t) :
    encodeText l t = .ok (construct l (.infinity (startsMinus (Machine.normalize t) && l.sw == 1))) :=
  if_pos ((contains_iff _ _).2 h)

theorem encodeText_of_nan (hinf : ¬infBytes <:+: Machine.normalize t) (h : nanBytes <:+: Machine.normalize t) :
    encodeText l t = .ok (construct l (.nan false .empty)) :=
  (if_neg (mt (contains_iff _ _).1 hinf)).trans (if_pos ((contains_iff _ _).2 h))

theorem encodeText_of_parseDecimal (hinf : ¬infBytes <:+: Machine.normalize t) (hnan : ¬nanBytes <:+: Machine.normalize t)
    {x : Decimal} (hx : parseDecimal (Machine.normalize t) = some x) :
    encodeText l t = .ok (encodeDecimal l (startsMinus (Machine.normalize t) && l.sw == 1) x) := by
  rw [encodeText]
  simp only [hx]
  exact (if_neg (mt (contains_iff _ _).1 hinf)).trans (if_neg (mt (contains_iff _ _).1 hnan))

/-- The letter 'n', which both literals have, stands in no numeral. -/
theorem not_mem_of_isNumeral {u a b : List Byte} {neg : Bool} (h : IsNumeral u neg a b) : (0x6E : Byte) ∉ u := by
  obtain ⟨sg, r, hsg, rfl, hr⟩ := (isNumeral_iff u neg a b).1 h
  rw [List.mem_append, not_or]
  refine ⟨?_, fun hmem => absurd (mem_of_isUnsigned hr hmem) (by decide)⟩
  obtain ⟨-, rfl⟩ | ⟨-, rfl | rfl⟩ := hsg <;> decide

theorem encodeText_of_isNumeral {a b : List Byte} {neg : Bool} (h : IsNumeral (Machine.normalize t) neg a b) :
    encodeText l t = .ok (encodeDecimal l (neg && l.sw == 1) (numeralDecimal a b)) := by
  have hletter := not_mem_of_isNumeral h
  obtain ⟨rfl, -⟩ := (isNumeral_iff_splitNumeral _ _ _ _).1 h
  exact encodeText_of_parseDecimal (fun hinf => hletter (hinf.mem (by decide))) (fun hnan => hletter (hnan.mem (by decide)))
    ((parseDecimal_eq_some_iff _ _).2 ⟨_, a, b, h, rfl⟩)

/-- A sign that the layout has no field for adds nothing to a pattern, so dropping it first makes no difference (R274). -/
theorem signPart_and_sw (l : Layout) (neg : Bool) : signPart l (neg && l.sw == 1) = signPart l neg := by
  by_cases hs : l.sw = 1 <;> simp [signPart, hs]

/-! ### The command -/

section Exec

variable {s : State} {cd : CReg}

theorem exec_encode_of_ok (hv : s.lr.valid = true) {p : Container} (hp : encodeText s.lr.layout (inputText s) = .ok p) :
    exec (.encode cd) s = settle s (.ok ((s.setC cd p).putTout p.text)) := by
  change encodeText s.lr.layout s.tinText = .ok p at hp
  simp only [exec, execEncode, layoutOr_valid hv, hp]

theorem exec_encode_of_invalid (hv : s.lr.valid = false) : exec (.encode cd) s = settle s (.error .layout) := by
  simp only [exec, execEncode, layoutOr_invalid hv]

/-- Writing a pattern and its text is the success of ENCODE (R271). -/
theorem wrotePattern_putTout {p : Container} (hp : p.wf) :
    WrotePattern cd p.size p.bits s (completeOk ((s.setC cd p).putTout p.text)) := by
  obtain ⟨hsize, -⟩ := id hp
  have hregs : SameRegsBut cd s (completeOk ((s.setC cd p).putTout p.text)) := fun k hk => getC_setC_other s p hk
  have hlen : (BitVec.ofNat 13 p.text.length).toNat = p.size := by
    rw [length_text]
    exact Nat.mod_eq_of_lt (hsize.trans_lt (by decide))
  have hzero (a : Nat) (ha : p.size ≤ a) : (Memory.ofBytes p.text).read a = 0 := by
    rw [read_ofBytes, List.getD_eq_default _ _ ((length_text p).trans_le ha)]
  have hchar (a : Nat) (ha : a < p.size) :
      (Memory.ofBytes p.text).read a = if p.bits.testBit (p.size - 1 - a) then 0x31 else 0x30 := by
    rw [read_ofBytes, getD_text p ha, bit_eq_testBit hp]
  simpa [WrotePattern, Succeeded, hregs, hlen, SameResult, Unwritten] using ⟨hzero, hchar⟩

/-- ENCODE writes the pattern that the encoder answers, which is a legal container (R271, R284). -/
theorem encode_writes {w bits : Nat} (h : s.Inv) (hv : s.lr.valid = true)
    (hp : encodeText s.lr.layout (inputText s) = .ok ⟨w, bits⟩) :
    ∃ t, exec (.encode cd) s = .next t ∧ WrotePattern cd w bits s t :=
  ⟨_, exec_encode_of_ok hv hp, wrotePattern_putTout (wf_encodeText (layout_valid_of_inv h hv) hp)⟩

end Exec

/-- Settles O31: the literals are the landmark patterns of Infinity and of the quiet NaN with an empty payload. -/
theorem encodeLiteralTokens : Obligations.EncodeLiteralTokens := by
  rintro s cd l u h rfl rfl
  refine ⟨fun hv hinf => encode_writes h hv ?_, fun hv hinf hnan => encode_writes h hv ?_,
    fun hv => fails_of_error (exec_encode_of_invalid hv)⟩
  · rw [encodeText_of_inf hinf, construct_eq (layout_valid_of_inv h hv), landmarkBits, signPart_and_sw, startsMinus_iff]
  · rw [encodeText_of_nan hinf hnan, construct_eq (layout_valid_of_inv h hv)]
    simp [landmarkBits, Container.empty]

end Sys2Proof.Proofs
end

section
/-! The digit generation of ENCODE (43_encode.md R276 to R278, R281), exact on integers: which exponent, which mantissa field and
which remainder the expansion of num/den has. -/

namespace Sys2Proof.Proofs

open Sys2Proof Sys2Proof.Machine Sys2Proof.Claims Sys2Proof.Laws

/-! ### The two doubling loops -/

/-- The doublings of R277 stop at the first j with fr·2^j ≥ den, and take the leading 1 away. -/
theorem leadingOne_spec {den fuel fr : Nat} (z : Nat) (hlt : fr < den) (hfuel : den ≤ fr * 2 ^ fuel) :
    ∃ j, leadingOne den fuel fr z = (z + j, fr * 2 ^ j - den) ∧ den ≤ fr * 2 ^ j ∧ fr * 2 ^ j < den * 2 := by
  induction fuel generalizing fr z with
  | zero => omega
  | succ fuel ih =>
    rw [leadingOne]
    split
    · next hone => exact ⟨1, by rw [pow_one, Nat.mul_comm], by omega, by omega⟩
    · next hone =>
      have hdouble (j : Nat) : 2 * fr * 2 ^ j = fr * 2 ^ (j + 1) := by ring
      obtain ⟨j, hj, hlo, hhi⟩ := ih (fr := 2 * fr) (z + 1) (by omega) (by rwa [hdouble])
      rw [hdouble] at hj hlo hhi
      exact ⟨j + 1, by rw [hj, Nat.add_right_comm, Nat.add_assoc], hlo, hhi⟩

theorem fitMantissa_of_le {d : Digits} {mw : Nat} (h : d.len ≤ mw) : fitMantissa d mw = d.val * 2 ^ (mw - d.len) := by
  rw [fitMantissa]
  split
  · next hle =>
    obtain rfl := le_antisymm h hle
    rw [Nat.sub_self, pow_zero, Nat.div_one, Nat.mul_one]
  · rfl

/-- The digits of R278, filled up with zeros, and the remainder are the quotient and the remainder of `need` doublings. -/
theorem fractionDigits_spec {den need fr mw : Nat} {d : Digits} (hlt : fr < den) (hlen : d.len + need = mw) :
    (fractionDigits den need fr d).2 < den ∧
      fitMantissa (fractionDigits den need fr d).1 mw * den + (fractionDigits den need fr d).2 =
        (d.val * den + fr) * 2 ^ need := by
  induction need generalizing fr d with
  | zero =>
    obtain rfl : d.len = mw := hlen
    exact ⟨hlt, by rw [fractionDigits, fitMantissa_of_le le_rfl, Nat.sub_self, pow_zero, Nat.mul_one, Nat.mul_one]⟩
  | succ need ih =>
    rw [fractionDigits]
    split
    · next hzero =>
      have hle : d.len ≤ mw := by omega
      refine ⟨hlt, ?_⟩
      rw [fitMantissa_of_le hle, ← hlen, Nat.add_sub_cancel_left, hzero]
      ring
    · split
      · next hone =>
        obtain ⟨hrem, heq⟩ := ih (fr := 2 * fr - den) (d := ⟨d.len + 1, 2 * d.val + 1⟩) (by omega) (by simp only; omega)
        obtain ⟨r, hr⟩ := Nat.exists_eq_add_of_le hone
        refine ⟨hrem, heq.trans ?_⟩
        calc ((2 * d.val + 1) * den + (2 * fr - den)) * 2 ^ need = (2 * d.val * den + 2 * fr) * 2 ^ need := by
              rw [hr, Nat.add_sub_cancel_left]; ring
          _ = (d.val * den + fr) * 2 ^ (need + 1) := by ring
      · obtain ⟨hrem, heq⟩ := ih (fr := 2 * fr) (d := ⟨d.len + 1, 2 * d.val⟩) (by omega) (by simp only; omega)
        exact ⟨hrem, heq.trans (by ring)⟩

/-! ### The expansion -/

/-- What an expansion says of num/den. With e = k − z, the value is in [2^e, 2^(e+1)), its mantissa field is the value's first
mw + 1 binary digits without the leading 1, and the remainder is that of these digits when they reach to the point, and otherwise
that of the fraction. -/
structure ExpandsTo (mw num den : Nat) (E : Expansion) : Prop where
  exponent_le : den * 2 ^ E.k ≤ num * 2 ^ E.z
  lt_exponent : num * 2 ^ E.z < den * 2 ^ (E.k + 1)
  mantissa : fitMantissa E.d mw + 2 ^ mw = num * 2 ^ (mw + E.z) / (den * 2 ^ E.k)
  rem_of_le : E.k ≤ mw + E.z → E.rem * 2 ^ E.k = num * 2 ^ (mw + E.z) % (den * 2 ^ E.k)
  rem_of_lt : mw + E.z < E.k → E.rem = num % den

section Expand

variable {mw num den : Nat} {E : Expansion}

/-- Digits that reach to the point: the mantissa field and the remainder are those of one division by den. -/
theorem expandsTo_of_division (hlo : den * 2 ^ E.k ≤ num * 2 ^ E.z) (hhi : num * 2 ^ E.z < den * 2 ^ (E.k + 1))
    (hk : E.k ≤ mw + E.z) (hrem : E.rem < den)
    (heq : ((fitMantissa E.d mw + 2 ^ mw) * den + E.rem) * 2 ^ E.k = num * 2 ^ (mw + E.z)) : ExpandsTo mw num den E := by
  have hpow := Nat.two_pow_pos E.k
  obtain ⟨hdiv, hmod⟩ := (Nat.div_mod_unique (Nat.mul_pos (Nat.zero_lt_of_lt hrem) hpow)).2
    ⟨(by rw [← heq]; ring : E.rem * 2 ^ E.k + den * 2 ^ E.k * (fitMantissa E.d mw + 2 ^ mw) = num * 2 ^ (mw + E.z)),
      Nat.mul_lt_mul_of_pos_right hrem hpow⟩
  exact ⟨hlo, hhi, hdiv.symm, fun _ => hmod.symm, fun hlt => absurd hlt hk.not_gt⟩

/-- A value below 1 (R277, I = 0). -/
theorem expandsTo_of_num_lt (hnum : 0 < num) (hlt : num < den) : ExpandsTo mw num den (expand mw ⟨num, den⟩) := by
  have hfuel : den ≤ num * 2 ^ (Nat.log2 den + 1) :=
    Nat.lt_log2_self.le.trans (Nat.le_mul_of_pos_left _ hnum)
  obtain ⟨j, hj, hlo, hhi⟩ := leadingOne_spec 0 hlt hfuel
  obtain ⟨fr, hfr⟩ := Nat.exists_eq_add_of_le hlo
  rw [hfr, Nat.add_sub_cancel_left, Nat.zero_add] at hj
  obtain ⟨hrem, heq⟩ := fractionDigits_spec (need := mw) (mw := mw) (d := ⟨0, 0⟩) (by omega : fr < den) (Nat.zero_add mw)
  have hexpand : expand mw ⟨num, den⟩ =
      ⟨0, j, (fractionDigits den mw fr ⟨0, 0⟩).1, (fractionDigits den mw fr ⟨0, 0⟩).2⟩ := by
    simp only [expand, Nat.div_eq_of_lt hlt, Nat.mod_eq_of_lt hlt, lt_irrefl, if_false, hj]
  rw [hexpand]
  refine expandsTo_of_division (by simpa using hlo) (by simpa using hhi) (Nat.zero_le _) hrem ?_
  calc _ = (fitMantissa (fractionDigits den mw fr ⟨0, 0⟩).1 mw * den + (fractionDigits den mw fr ⟨0, 0⟩).2) + den * 2 ^ mw := by
        ring
    _ = (den + fr) * 2 ^ mw := by rw [heq]; ring
    _ = num * 2 ^ (mw + j) := by rw [← hfr]; ring

/-- The integer part 2^L + i, for i < 2^L, has the L digits of i after its leading 1 (R277). -/
theorem expand_integer {L i r : Nat} (hi : i < 2 ^ L) (hr : r < den) :
    expand mw ⟨(2 ^ L + i) * den + r, den⟩ =
      ⟨L, 0, (fractionDigits den (mw - L) r ⟨L, i⟩).1, (fractionDigits den (mw - L) r ⟨L, i⟩).2⟩ := by
  have hpos : 0 < 2 ^ L + i := Nat.add_pos_left (Nat.two_pow_pos L) i
  have hdiv : ((2 ^ L + i) * den + r) / den = 2 ^ L + i := by
    rw [Nat.mul_comm, Nat.mul_add_div (Nat.zero_lt_of_lt hr), Nat.div_eq_of_lt hr, Nat.add_zero]
  have hmod : ((2 ^ L + i) * den + r) % den = r := by rw [Nat.mul_comm, Nat.mul_add_mod, Nat.mod_eq_of_lt hr]
  have hlog : Nat.log2 (2 ^ L + i) = L := (Nat.log2_eq_iff hpos.ne').2 ⟨by omega, by rw [pow_succ]; omega⟩
  simp only [expand, hdiv, hmod, if_pos hpos, integerDigits, hlog, Nat.add_sub_cancel_left]

/-- A value of at least 1 (R277, I > 0), whose integer digits fill the mantissa or leave room for fraction digits. -/
theorem expandsTo_integer {L i r : Nat} (hi : i < 2 ^ L) (hr : r < den) :
    ExpandsTo mw ((2 ^ L + i) * den + r) den (expand mw ⟨(2 ^ L + i) * den + r, den⟩) := by
  rw [expand_integer hi hr]
  have hlo : den * 2 ^ L ≤ ((2 ^ L + i) * den + r) * 2 ^ 0 := by nlinarith
  have hhi : ((2 ^ L + i) * den + r) * 2 ^ 0 < den * 2 ^ (L + 1) := by
    have : (i + 1) * den ≤ 2 ^ L * den := Nat.mul_le_mul_right den hi
    rw [pow_succ]
    linarith
  obtain hmw | hmw := Nat.lt_or_ge mw L
  · rw [Nat.sub_eq_zero_of_le hmw.le, fractionDigits]
    have hmod : r = ((2 ^ L + i) * den + r) % den := by rw [Nat.mul_comm, Nat.mul_add_mod, Nat.mod_eq_of_lt hr]
    refine ⟨hlo, hhi, ?_, fun hle => absurd hmw hle.not_gt, fun _ => hmod⟩
    obtain ⟨n, rfl⟩ := Nat.exists_eq_add_of_le hmw.le
    have hsplit : den * 2 ^ (mw + n) = 2 ^ mw * (den * 2 ^ n) := by rw [pow_add]; ring
    rw [fitMantissa, if_pos hmw.le, Nat.add_sub_cancel_left, Nat.add_zero, Nat.mul_comm _ (2 ^ mw), hsplit,
      Nat.mul_div_mul_left _ _ (Nat.two_pow_pos mw), ← Nat.div_div_eq_div_mul, Nat.mul_comm _ den,
      Nat.mul_add_div (Nat.zero_lt_of_lt hr), Nat.div_eq_of_lt hr, Nat.add_zero, pow_add, Nat.mul_comm (2 ^ mw),
      Nat.mul_add_div (Nat.two_pow_pos n), Nat.add_comm]
  · obtain ⟨n, rfl⟩ := Nat.exists_eq_add_of_le hmw
    obtain ⟨hrem, heq⟩ := fractionDigits_spec (need := n) (d := ⟨L, i⟩) hr rfl
    rw [Nat.add_sub_cancel_left]
    refine expandsTo_of_division hlo hhi hmw hrem ?_
    calc _ = (fitMantissa (fractionDigits den n r ⟨L, i⟩).1 (L + n) * den + (fractionDigits den n r ⟨L, i⟩).2 +
            2 ^ (L + n) * den) * 2 ^ L := by ring
      _ = ((2 ^ L + i) * den + r) * 2 ^ (L + n + 0) := by rw [heq]; ring

/-- The expansion of every value above 0 (R276 to R278). -/
theorem expandsTo_expand (mw : Nat) (hnum : 0 < num) (hden : 0 < den) : ExpandsTo mw num den (expand mw ⟨num, den⟩) := by
  obtain hlt | hle := Nat.lt_or_ge num den
  · exact expandsTo_of_num_lt hnum hlt
  · have hI : num / den ≠ 0 := (Nat.div_pos hle hden).ne'
    obtain ⟨i, hi⟩ := Nat.exists_eq_add_of_le (Nat.log2_self_le hI)
    have hlt := Nat.lt_log2_self (n := num / den)
    rw [pow_succ] at hlt
    rw [← Nat.div_add_mod' num den, hi]
    exact expandsTo_integer (by omega) (Nat.mod_lt num hden)

end Expand

end Sys2Proof.Proofs
end

section
/-! The value of a numeral and the pattern ENCODE assembles for it (43_encode.md R275, R279 to R283). -/

namespace Sys2Proof.Proofs

open Sys2Proof Sys2Proof.Machine Sys2Proof.Claims Sys2Proof.Laws

/-! ### The expansion of a rational, as its exponent, its truncation and its next fraction bit -/

section Value

variable {mw num den : Nat} {E : Expansion}

theorem two_zpow_sub_le_div_iff (hden : 0 < den) (p q : Nat) :
    (2 : ℚ) ^ ((p : ℤ) - q) ≤ (num : ℚ) / den ↔ den * 2 ^ p ≤ num * 2 ^ q := by
  have hden' : (0 : ℚ) < den := by exact_mod_cast hden
  rw [zpow_sub₀ two_ne_zero, zpow_natCast, zpow_natCast, div_le_div_iff₀ (by positivity) hden', mul_comm _ (den : ℚ)]
  exact_mod_cast Iff.rfl

theorem floor_div_mul_two_zpow_sub (num den p q : Nat) :
    ⌊(num : ℚ) / den * 2 ^ ((p : ℤ) - q)⌋ = ((num * 2 ^ p / (den * 2 ^ q) : Nat) : ℤ) := by
  rw [zpow_sub₀ two_ne_zero, zpow_natCast, zpow_natCast, div_mul_div_comm]
  exact_mod_cast Rat.floor_natCast_div_natCast (num * 2 ^ p) (den * 2 ^ q)

/-- Only one exponent e has 2^e ≤ num/den < 2^(e+1). -/
theorem ExpandsTo.exponent_eq (h : ExpandsTo mw num den E) (hden : 0 < den) {e : ℤ} (hlo : (2 : ℚ) ^ e ≤ (num : ℚ) / den)
    (hhi : (num : ℚ) / den < 2 ^ (e + 1)) : (E.k : ℤ) - E.z = e := by
  have hlo' := (two_zpow_sub_le_div_iff hden _ _).2 h.exponent_le
  have hhi' := lt_of_not_ge (mt (two_zpow_sub_le_div_iff hden _ _).1 h.lt_exponent.not_ge)
  have h₁ := (zpow_lt_zpow_iff_right₀ (one_lt_two (α := ℚ))).1 (hlo'.trans_lt hhi)
  have h₂ := (zpow_lt_zpow_iff_right₀ (one_lt_two (α := ℚ))).1 (hlo.trans_lt hhi')
  push_cast at h₁ h₂
  omega

theorem ExpandsTo.mantissa_lt (h : ExpandsTo mw num den E) : fitMantissa E.d mw < 2 ^ mw := by
  have hlt : num * 2 ^ (mw + E.z) / (den * 2 ^ E.k) < 2 ^ (mw + 1) := by
    refine Nat.div_lt_of_lt_mul ?_
    calc num * 2 ^ (mw + E.z) = num * 2 ^ E.z * 2 ^ mw := by ring
      _ < den * 2 ^ (E.k + 1) * 2 ^ mw := Nat.mul_lt_mul_of_pos_right h.lt_exponent (Nat.two_pow_pos mw)
      _ = den * 2 ^ E.k * 2 ^ (mw + 1) := by ring
  rw [← h.mantissa, pow_succ] at hlt
  omega

/-- The mantissa field is the value truncated to mw bits after its leading 1 (R281). -/
theorem ExpandsTo.floor_eq (h : ExpandsTo mw num den E) :
    ⌊(num : ℚ) / den * 2 ^ ((mw : ℤ) - ((E.k : ℤ) - E.z))⌋ = (fitMantissa E.d mw : ℤ) + 2 ^ mw := by
  have hexp : (mw : ℤ) - ((E.k : ℤ) - E.z) = ((mw + E.z : Nat) : ℤ) - E.k := by push_cast; ring
  rw [hexp, floor_div_mul_two_zpow_sub, ← h.mantissa]
  push_cast
  rfl

/-- The last bit of twice a quotient is the first binary digit of the remainder. -/
theorem two_mul_div_mod_two {a b : Nat} (hb : 0 < b) : 2 * a / b % 2 = if b ≤ 2 * (a % b) then 1 else 0 := by
  have hmod := Nat.mod_lt a hb
  have hsplit : 2 * a / b = 2 * (a / b) + 2 * (a % b) / b := by
    conv_lhs => rw [← Nat.div_add_mod a b, Nat.mul_add, Nat.mul_left_comm, Nat.mul_add_div hb]
  rw [hsplit, Nat.mul_add_mod]
  split
  · next hle => rw [Nat.div_eq_of_lt_le (k := 1) (by omega) (by omega)]
  · next hlt => rw [Nat.div_eq_of_lt (by omega)]

/-- The rounding bit is the fraction bit after the mantissa's digits, or the first one when these do not reach to the point
(R282). -/
theorem ExpandsTo.roundBit_eq (h : ExpandsTo mw num den E) (hden : 0 < den) :
    (if (E.k : ℤ) - E.z ≤ mw then ⌊(num : ℚ) / den * 2 ^ ((mw : ℤ) - ((E.k : ℤ) - E.z) + 1)⌋ % 2
      else ⌊(num : ℚ) / den * 2⌋ % 2) = ((if den ≤ 2 * E.rem then 1 else 0 : Nat) : ℤ) := by
  have hpow := Nat.two_pow_pos E.k
  split
  · next hle =>
    have hexp : (mw : ℤ) - ((E.k : ℤ) - E.z) + 1 = ((mw + E.z + 1 : Nat) : ℤ) - E.k := by push_cast; ring
    have hrem : den * 2 ^ E.k ≤ 2 * (E.rem * 2 ^ E.k) ↔ den ≤ 2 * E.rem := by
      rw [← Nat.mul_assoc]
      exact Nat.mul_le_mul_right_iff hpow
    have hbit := two_mul_div_mod_two (a := num * 2 ^ (mw + E.z)) (Nat.mul_pos hden hpow)
    rw [← h.rem_of_le (by omega)] at hbit
    simp only [hrem] at hbit
    rw [hexp, floor_div_mul_two_zpow_sub, ← hbit, pow_succ, ← Nat.mul_assoc, Nat.mul_comm _ 2]
    exact_mod_cast rfl
  · next hlt =>
    have hfloor : ⌊(num : ℚ) / den * 2⌋ = ((2 * num / den : Nat) : ℤ) := by
      simpa [Nat.mul_comm] using floor_div_mul_two_zpow_sub num den 1 0
    have hbit := two_mul_div_mod_two (a := num) hden
    rw [← h.rem_of_lt (by omega)] at hbit
    rw [hfloor, ← hbit]
    exact_mod_cast rfl

end Value

/-! ### Assembly and rounding -/

section Assemble

variable {l : Layout} (hl : l.valid) (s : Bool) {den c : Nat} {E : Expansion}
include hl

theorem signPart_add_le : signPart l s + 2 ^ (l.ew + l.mw) ≤ 2 ^ (l.sw + l.ew + l.mw) := by
  obtain ⟨hsw | hsw, -⟩ := hl
  · rw [hsw, Nat.zero_add]
    simp [signPart, hsw]
  · rw [hsw, Nat.add_assoc, Nat.add_comm 1, pow_succ, signPart]
    split <;> omega

/-- The increment adds 1, also at the largest normal number: the number after it is Infinity's (R283). -/
theorem incrementPattern_eq {n : Nat} (hn : signPart l s ≤ n) (hlt : n < signPart l s + (2 ^ l.ew - 1) * 2 ^ l.mw) :
    incrementPattern l s ⟨l.sw + l.ew + l.mw, n⟩ = ⟨l.sw + l.ew + l.mw, n + 1⟩ := by
  obtain ⟨-, hew, -⟩ := id hl
  have htwo : 2 ^ 1 ≤ 2 ^ l.ew := Nat.pow_le_pow_right two_pos (by omega)
  obtain ⟨k, hk⟩ := Nat.exists_eq_add_of_le' htwo
  have hM := Nat.two_pow_pos l.mw
  have htop : 2 ^ (l.ew + l.mw) = k * 2 ^ l.mw + 2 ^ l.mw + 2 ^ l.mw := by rw [pow_add, hk]; ring
  have hinf : (2 ^ l.ew - 1) * 2 ^ l.mw = k * 2 ^ l.mw + 2 ^ l.mw := by rw [hk]; exact Nat.succ_mul k _
  rw [incrementPattern, construct_eq hl, construct_eq hl]
  split
  · next hlnorm =>
    have hbits : n = k * 2 ^ l.mw + (2 ^ l.mw - 1) := by simpa [landmarkBits, hk] using hlnorm
    have hsign : signPart l s = 0 := by
      have hcases : signPart l s = 0 ∨ signPart l s = 2 ^ (l.ew + l.mw) := by
        rw [signPart]
        split
        · exact .inr rfl
        · exact .inl rfl
      omega
    rw [landmarkBits, hsign, hinf, hbits]
    congr 1
    omega
  · have hw := signPart_add_le hl s
    have hfits : n + 1 < 2 ^ l.width := by rw [Layout.width]; omega
    exact congrArg (Container.mk _) (Nat.mod_eq_of_lt hfits)

theorem assemble_of_overflow (hE : (2 : ℤ) ^ l.ew - 1 ≤ E.k - E.z + l.bias) :
    assemble l s den E = ⟨l.sw + l.ew + l.mw, signPart l s + (2 ^ l.ew - 1) * 2 ^ l.mw⟩ := by
  have hones : (l.onesE : ℤ) ≤ E.k - E.z + l.bias := by
    rwa [Layout.onesE, Nat.cast_sub Nat.one_le_two_pow, Nat.cast_pow]
  rw [assemble]
  simp only [if_pos hones]
  exact construct_eq hl _

theorem assemble_of_underflow (hE : (E.k : ℤ) - E.z + l.bias < 0) :
    assemble l s den E = ⟨l.sw + l.ew + l.mw, signPart l s⟩ := by
  have hones : ¬(l.onesE : ℤ) ≤ E.k - E.z + l.bias := by omega
  rw [assemble]
  simp only [if_neg hones, if_pos hE]
  exact construct_eq hl _

/-- The fields of a number in range, and the rounding bit added to them (R281 to R283). -/
theorem assemble_in_range (hden : 0 < den) (hc : (E.k : ℤ) - E.z + l.bias = c) (hlt : c < 2 ^ l.ew - 1)
    (hfit : fitMantissa E.d l.mw < 2 ^ l.mw) :
    assemble l s den E = ⟨l.sw + l.ew + l.mw,
      signPart l s + c * 2 ^ l.mw + fitMantissa E.d l.mw + if den ≤ 2 * E.rem then 1 else 0⟩ := by
  have hones : ¬(l.onesE : ℤ) ≤ c := by rw [Layout.onesE]; omega
  have hpack := pack_eq hl s (by omega : c < 2 ^ l.ew) hfit rfl
  have hrem : E.rem ≠ 0 ∧ den ≤ 2 * E.rem ↔ den ≤ 2 * E.rem := ⟨And.right, fun h => ⟨by omega, h⟩⟩
  rw [assemble]
  simp only [hc, if_neg hones, if_neg (Int.natCast_nonneg c).not_gt, Int.toNat_natCast, hpack, hrem]
  split
  · have hle : (c + 1) * 2 ^ l.mw ≤ (2 ^ l.ew - 1) * 2 ^ l.mw := Nat.mul_le_mul_right _ hlt
    rw [Nat.succ_mul] at hle
    exact incrementPattern_eq hl s (by omega) (by omega)
  · rfl

end Assemble

/-! ### Numerals -/

/-- A value with an exponent is assembled from an expansion with that exponent (R276 to R279). -/
theorem encodeDecimal_of_exponent (l : Layout) (s : Bool) {x : Decimal} (hden : 0 < x.den) {e : ℤ}
    (hlo : (2 : ℚ) ^ e ≤ (x.num : ℚ) / x.den) (hhi : (x.num : ℚ) / x.den < 2 ^ (e + 1)) :
    ∃ E, ExpandsTo l.mw x.num x.den E ∧ (E.k : ℤ) - E.z = e ∧ encodeDecimal l s x = assemble l s x.den E := by
  have hnum : x.num ≠ 0 := by
    intro hzero
    rw [hzero, Nat.cast_zero, zero_div] at hlo
    exact absurd hlo (zpow_pos two_pos e).not_ge
  have hE := expandsTo_expand l.mw (Nat.pos_of_ne_zero hnum) hden
  exact ⟨_, hE, hE.exponent_eq hden hlo hhi, if_neg hnum⟩

/-- ENCODE of a numeral writes the pattern of its value under the sign that the layout can hold (R274). -/
theorem encode_writes_numeral {s : State} {cd : CReg} {neg : Bool} {a b : List Byte} {w bits : Nat} (h : s.Inv)
    (hv : s.lr.valid = true) (hn : TinNumeral s neg a b)
    (hp : encodeDecimal s.lr.layout (neg && s.lr.layout.sw == 1) (numeralDecimal a b) = ⟨w, bits⟩) :
    ∃ t, exec (.encode cd) s = .next t ∧ WrotePattern cd w bits s t :=
  encode_writes h hv ((encodeText_of_isNumeral hn).trans (congrArg _ hp))

theorem numeralDecimal_num_eq_zero {a b : List Byte} (h : numeralValue a b = 0) : (numeralDecimal a b).num = 0 := by
  have hden : ((numeralDecimal a b).den : ℚ) ≠ 0 := by exact_mod_cast (numeralDecimal_den_pos a b).ne'
  rw [← numeralDecimal_value, div_eq_zero_iff, or_iff_left hden] at h
  exact_mod_cast h

/-- Settles O32: the three outcomes that R275 and R280 take before any digit is packed. -/
theorem encodeOutOfRange : Obligations.EncodeOutOfRange := by
  rintro s cd l neg a b h hv rfl hn
  have hl := layout_valid_of_inv h hv
  have hden := numeralDecimal_den_pos a b
  refine ⟨fun hzero => encode_writes_numeral h hv hn ?_, fun e hlo hhi => ?_⟩
  · rw [encodeDecimal, if_pos (numeralDecimal_num_eq_zero hzero), construct_eq hl, landmarkBits, signPart_and_sw]
  · rw [← numeralDecimal_value] at hlo hhi
    obtain ⟨E, -, rfl, hE⟩ := encodeDecimal_of_exponent s.lr.layout (neg && s.lr.layout.sw == 1) hden hlo hhi
    exact ⟨fun hunder => encode_writes_numeral h hv hn (by rw [hE, assemble_of_underflow hl _ hunder, signPart_and_sw]),
      fun hover => encode_writes_numeral h hv hn (by rw [hE, assemble_of_overflow hl _ hover, signPart_and_sw])⟩

/-- Settles O33: the mantissa field is the truncated value and the remainder's first bit is the rounding bit. -/
theorem encodeTruncatesAndRoundsHalfUp : Obligations.EncodeTruncatesAndRoundsHalfUp := by
  rintro s cd l neg a b e x h hv rfl hn rfl hlo hhi hmin hmax
  have hl := layout_valid_of_inv h hv
  have hden := numeralDecimal_den_pos a b
  rw [← numeralDecimal_value] at hlo hhi ⊢
  obtain ⟨E, hx, rfl, hE⟩ := encodeDecimal_of_exponent s.lr.layout (neg && s.lr.layout.sw == 1) hden hlo hhi
  obtain ⟨c, hc⟩ := Int.eq_ofNat_of_zero_le hmin
  have hlt : c < 2 ^ s.lr.layout.ew - 1 := by
    rw [hc] at hmax
    exact Nat.lt_sub_of_add_lt (by exact_mod_cast Int.add_lt_of_lt_sub_right hmax)
  obtain ⟨t, ht, hw⟩ := encode_writes_numeral (cd := cd) h hv hn (hE.trans (assemble_in_range hl _ hden hc hlt hx.mantissa_lt))
  refine ⟨t, _, ht, hw, ?_⟩
  rw [hx.roundBit_eq hden, hx.floor_eq, hc, signPart_and_sw]
  push_cast
  ring

end Sys2Proof.Proofs
end

section
/-! The command DECODE (44_decode.md R311, R312), its literal tokens (R313), and the fall-through to a number (R314). -/

namespace Sys2Proof.Proofs

open Sys2Proof Sys2Proof.Machine Sys2Proof.Claims Sys2Proof.Laws

/-! ### The command -/

/-- TIN shows one container: its size and its bits are those of the text (R154). -/
theorem eq_of_showsTin {s : State} {x y : Container} (hx : ShowsTin s x) (hy : ShowsTin s y) : x = y := by
  obtain ⟨hxsize, hxwf, hxbit⟩ := hx
  obtain ⟨hysize, hywf, hybit⟩ := hy
  refine container_ext hxwf hywf (hxsize.trans hysize.symm) fun j hj => ?_
  rw [hysize] at hj
  have hchar : s.tinLen.toNat - 1 - j < s.tinLen.toNat := by omega
  have hback : s.tinLen.toNat - 1 - (s.tinLen.toNat - 1 - j) = j := by omega
  rw [← hback, hxbit _ hchar, hybit _ hchar]

section Exec

variable {s : State}

theorem exec_decode_of_invalid (hv : s.lr.valid = false) : exec .decode s = settle s (.error .layout) := by
  simp only [exec, execDecode, layoutOr_invalid hv]

theorem exec_decode_of_error (hv : s.lr.valid = true) {e : ErrorCode}
    (h : parsePattern s.lr.layout.width s.tinText = .error e) : exec .decode s = settle s (.error e) := by
  simp only [exec, execDecode, layoutOr_valid hv, decodeText, h]

theorem parsePattern_of_length_ne {w : Nat} (hlen : s.tinLen.toNat ≠ w) : parsePattern w s.tinText = .error .length :=
  if_pos (length_tinText s ▸ hlen)

theorem parsePattern_of_badBit {w : Nat} (hlen : s.tinLen.toNat = w) (hbad : BadBit s) :
    parsePattern w s.tinText = .error .bits := by
  rw [parsePattern, if_neg (not_not.2 ((length_tinText s).trans hlen)), if_pos ((not_isBitText_iff s).2 hbad)]

theorem parsePattern_of_showsTin {w : Nat} (hlen : s.tinLen.toNat = w) (hgood : ¬BadBit s) {p : Container}
    (hp : ShowsTin s p) : parsePattern w s.tinText = .ok p := by
  obtain ⟨hsize, ⟨hcap, -⟩, -⟩ := id hp
  rw [parsePattern, if_neg (not_not.2 ((length_tinText s).trans hlen)), if_neg (mt (not_isBitText_iff s).1 hgood),
    eq_of_showsTin (showsTin_parseBits (hsize ▸ hcap)) hp]

/-- DECODE of a bit string of the layout's width writes the text of the pattern that TIN shows (R311, R312). -/
theorem decode_writes (hv : s.lr.valid = true) (hlen : s.tinLen.toNat = s.lr.layout.width) (hgood : ¬BadBit s)
    {p : Container} (hp : ShowsTin s p) {x : List Byte} (hx : decodePattern s.lr.layout s.prec.toNat p = x) :
    ∃ t, exec .decode s = .next t ∧ WroteTout x s t := by
  subst hx
  refine ⟨_, ?_, wroteTout_putTout (length_decodePattern_le s.lr.layout s.prec.toNat p) s⟩
  simp only [exec, execDecode, layoutOr_valid hv, decodeText, parsePattern_of_showsTin hlen hgood hp, settle_ok]

end Exec

/-! ### The text of a pattern, by its class -/

section Pattern

variable {l : Layout} {p : Container} (hl : l.valid) (hp : p.wf)
include hl hp

theorem decodePattern_of_token {k : ClassCode} (hk : ClassTest l (l.neg p) (l.expf p) (l.manf p) k) {x : List Byte}
    (hx : classToken k = some x) (prec : Nat) : decodePattern l prec p = x := by
  simp only [decodePattern, classify_of_classTest hl hp hk, hx]

theorem decodePattern_of_zero (he : expOf l p.bits = 0) (hm : manOf l p.bits = 0) (prec : Nat) :
    decodePattern l prec p = signed (negOf l p.bits) tokenZero := by
  rw [← neg_eq_negOf hp]
  have he := (expf_eq hp).trans he
  have hm := (manf_eq hp).trans hm
  cases hneg : l.neg p with
  | false => exact decodePattern_of_token hl hp (k := .zeroPos) ⟨hneg, he, hm⟩ rfl prec
  | true => exact decodePattern_of_token hl hp (k := .zeroNeg) ⟨hneg, he, hm⟩ rfl prec

theorem decodePattern_of_infinity (he : expOf l p.bits = 2 ^ l.ew - 1) (hm : manOf l p.bits = 0) (prec : Nat) :
    decodePattern l prec p = signed (negOf l p.bits) infinityToken := by
  rw [← neg_eq_negOf hp]
  have he := (expf_eq hp).trans he
  have hm := (manf_eq hp).trans hm
  cases hneg : l.neg p with
  | false => exact decodePattern_of_token hl hp (k := .infPos) ⟨hneg, he, hm⟩ rfl prec
  | true => exact decodePattern_of_token hl hp (k := .infNeg) ⟨hneg, he, hm⟩ rfl prec

theorem decodePattern_of_nan (he : expOf l p.bits = 2 ^ l.ew - 1) (hm : manOf l p.bits ≠ 0) (prec : Nat) :
    decodePattern l prec p = nanToken := by
  have he := (expf_eq hp).trans he
  have hm := (manf_eq hp).trans_ne hm
  obtain hq | hq := Nat.lt_or_ge (l.manf p) (2 ^ (l.mw - 1))
  · exact decodePattern_of_token hl hp (k := .nanSignaling) ⟨he, hm, hq⟩ rfl prec
  · exact decodePattern_of_token hl hp (k := .nanQuiet) ⟨he, hq⟩ rfl prec

omit hl hp in
/-- Only zeros, infinities and NaNs have a token; the other landmarks are read as numbers (R313). -/
theorem classToken_of_number {neg : Bool} {e m : Nat} {k : ClassCode} (hk : ClassTest l neg e m k) (he : e ≠ 2 ^ l.ew - 1)
    (hm : ¬(e = 0 ∧ m = 0)) : classToken k = none := by
  cases k with
  | zeroNeg | zeroPos => exact absurd hk.2 hm
  | infNeg | infPos => exact absurd hk.2.1 he
  | nanQuiet | nanSignaling => exact absurd hk.1 he
  | _ => rfl

theorem decodePattern_of_number (he : expOf l p.bits ≠ 2 ^ l.ew - 1) (hm : ¬(expOf l p.bits = 0 ∧ manOf l p.bits = 0))
    (prec : Nat) : decodePattern l prec p = formatValue (negOf l p.bits) prec (patternMagnitude l p) := by
  have hk := classTest_classify hl hp
  rw [expf_eq hp, manf_eq hp] at hk
  rw [← neg_eq_negOf hp]
  simp only [decodePattern, classToken_of_number hk he hm]
  rfl

end Pattern

/-- Settles O35: each token is that of the class that the pattern's fields name, and the errors come in the order of the checks. -/
theorem decodeWritesTokens : Obligations.DecodeWritesTokens := by
  rintro s p l h rfl
  refine ⟨fun hp hv hlen hgood => ?_, fun hv => fails_of_error (exec_decode_of_invalid hv),
    fun hv hlen => fails_of_error (exec_decode_of_error hv (parsePattern_of_length_ne hlen)),
    fun hv hlen hbad => fails_of_error (exec_decode_of_error hv (parsePattern_of_badBit hlen hbad))⟩
  have hl := layout_valid_of_inv h hv
  obtain ⟨-, hwf, -⟩ := id hp
  exact ⟨fun he hm => decode_writes hv hlen hgood hp (decodePattern_of_zero hl hwf he hm _),
    fun he hm => decode_writes hv hlen hgood hp (decodePattern_of_infinity hl hwf he hm _),
    fun he hm => decode_writes hv hlen hgood hp (decodePattern_of_nan hl hwf he hm _)⟩

end Sys2Proof.Proofs
end

section
/-! The decimal text that DECODE writes for a finite value (44_decode.md R318): its shape, and the number it shows. -/

namespace Sys2Proof.Proofs

open Sys2Proof.Machine Sys2Proof.Claims

/-! ### The value of a digit string -/

theorem digitsValue_append (x y : List Byte) : digitsValue (x ++ y) = digitsValue x * 10 ^ y.length + digitsValue y := by
  induction x with
  | nil => simp [digitsValue]
  | cons d x ih => rw [List.cons_append, digitsValue, digitsValue, ih, List.length_append, pow_add]; ring

theorem digitsValue_replicate_zero (k : Nat) : digitsValue (List.replicate k charZero) = 0 := by
  induction k with
  | zero => rfl
  | succ k ih => simp [List.replicate_succ, digitsValue, ih, show charZero.toNat = 0x30 from rfl]

/-- The digits that a scan for '0's passes are '0's. -/
theorem takeWhile_zero_eq_replicate (t : List Byte) :
    t.takeWhile (· == charZero) = List.replicate (t.takeWhile (· == charZero)).length charZero :=
  List.eq_replicate_of_mem fun _ hb => beq_iff_eq.1 (List.mem_takeWhile_imp (p := (· == charZero)) hb)

theorem head?_dropWhile_zero (t : List Byte) : (t.dropWhile (· == charZero)).head? ≠ some charZero := by
  intro h
  simpa only [h, beq_self_eq_true, Bool.true_eq_false] using List.head?_dropWhile_not (· == charZero) t

theorem digitsValue_dropWhile_zero (t : List Byte) : digitsValue (t.dropWhile (· == charZero)) = digitsValue t := by
  conv_rhs => rw [← List.takeWhile_append_dropWhile (p := (· == charZero)) (l := t), digitsValue_append,
    takeWhile_zero_eq_replicate, digitsValue_replicate_zero, Nat.zero_mul, Nat.zero_add]

/-- A text is what `stripZeros` keeps of it and '0's. -/
theorem stripZeros_append_zeros (t : List Byte) : ∃ k, t = stripZeros t ++ List.replicate k charZero := by
  refine ⟨(t.reverse.takeWhile (· == charZero)).length, ?_⟩
  rw [← List.reverse_replicate, ← takeWhile_zero_eq_replicate, stripZeros, ← List.reverse_append,
    List.takeWhile_append_dropWhile, List.reverse_reverse]

/-- Zeros at the end of a fraction do not change its value. -/
theorem digitsValue_div_append_zeros (t : List Byte) (k : Nat) :
    (digitsValue (t ++ List.replicate k charZero) : ℚ) / 10 ^ (t ++ List.replicate k charZero).length =
      digitsValue t / 10 ^ t.length := by
  rw [digitsValue_append, digitsValue_replicate_zero, List.length_append, List.length_replicate, pow_add]
  push_cast
  rw [add_zero, mul_div_mul_right _ _ (by positivity)]

/-! ### The digits of a number -/

theorem paddedDecimal_succ (len n : Nat) :
    paddedDecimal (len + 1) n [] = paddedDecimal len (n / 10) [] ++ [digitChar (n % 10)] := by
  rw [paddedDecimal, paddedDecimal_append]

theorem toNat_digitChar {d : Nat} (hd : d < 10) : (digitChar d).toNat = 0x30 + d := by
  rw [digitChar, BitVec.toNat_ofNat]
  omega

theorem allDigits_paddedDecimal (len n : Nat) : AllDigits (paddedDecimal len n []) := by
  induction len generalizing n with
  | zero => exact fun _ hc => absurd hc List.not_mem_nil
  | succ len ih =>
    rw [paddedDecimal_succ]
    refine List.forall_mem_append.2 ⟨ih _, List.forall_mem_singleton.2 ?_⟩
    have := toNat_digitChar (Nat.mod_lt n (by decide : 0 < 10))
    omega

theorem digitsValue_paddedDecimal (len n : Nat) : digitsValue (paddedDecimal len n []) = n % 10 ^ len := by
  induction len generalizing n with
  | zero => rw [pow_zero, Nat.mod_one]; rfl
  | succ len ih =>
    have hlast : digitsValue [digitChar (n % 10)] = n % 10 := by
      simp [digitsValue, toNat_digitChar (Nat.mod_lt n (by decide : 0 < 10))]
    rw [paddedDecimal_succ, digitsValue_append, ih, hlast, List.length_singleton, pow_one, pow_succ' 10 len, Nat.mod_mul]
    omega

/-! ### The two parts of the numeral -/

/-- A digit string, with "0" for the empty one (R318). -/
def orZero (t : List Byte) : List Byte := if t = [] then [charZero] else t

theorem decimalText_eq (n : Nat) :
    decimalText n = orZero ((paddedDecimal (Nat.log2 n + 1) n []).dropWhile (· == charZero)) := by
  rw [decimalText, orZero]
  split
  · next h => rw [if_pos h]
  · next h => rw [if_neg h]

theorem fractionText_eq (p fp : Nat) : fractionText p fp = orZero (stripZeros (paddedDecimal p fp [])) := by
  rw [fractionText, orZero]
  split
  · next h => rw [if_pos h]
  · next h => rw [if_neg h]

theorem orZero_cases (t : List Byte) : orZero t = [charZero] ∧ t = [] ∨ orZero t = t ∧ t ≠ [] := by
  rw [orZero]
  split_ifs with h
  · exact .inl ⟨rfl, h⟩
  · exact .inr ⟨rfl, h⟩

theorem orZero_ne_nil (t : List Byte) : orZero t ≠ [] := by
  obtain ⟨h, -⟩ | ⟨h, hne⟩ := orZero_cases t
  · rw [h]; exact List.cons_ne_nil _ _
  · rwa [h]

theorem allDigits_orZero {t : List Byte} (h : AllDigits t) : AllDigits (orZero t) := by
  obtain ⟨h0, -⟩ | ⟨h0, -⟩ := orZero_cases t
  · rw [h0]; exact List.forall_mem_singleton.2 (by decide)
  · rwa [h0]

/-- "0" is zero, as an integer and as a fraction. -/
theorem digitsValue_orZero (t : List Byte) :
    digitsValue (orZero t) = digitsValue t ∧
      (digitsValue (orZero t) : ℚ) / 10 ^ (orZero t).length = digitsValue t / 10 ^ t.length := by
  obtain ⟨h, rfl⟩ | ⟨h, -⟩ := orZero_cases t
  · rw [h]; simp [digitsValue, charZero]
  · rw [h]; exact ⟨rfl, rfl⟩

theorem decimalText_spec (n : Nat) :
    AllDigits (decimalText n) ∧ decimalText n ≠ [] ∧ (List.head? (decimalText n) = some 0x30 → decimalText n = [0x30]) ∧
      digitsValue (decimalText n) = n := by
  have hlt : n < 10 ^ (Nat.log2 n + 1) := Nat.lt_log2_self.trans_le (Nat.pow_le_pow_left (by decide) _)
  have hdigits := allDigits_paddedDecimal (Nat.log2 n + 1) n
  have hvalue := digitsValue_dropWhile_zero (paddedDecimal (Nat.log2 n + 1) n [])
  rw [digitsValue_paddedDecimal, Nat.mod_eq_of_lt hlt] at hvalue
  rw [decimalText_eq]
  refine ⟨allDigits_orZero fun c hc => hdigits c ((List.dropWhile_sublist _).subset hc), orZero_ne_nil _, fun h0 => ?_,
    (digitsValue_orZero _).1.trans hvalue⟩
  obtain ⟨h, -⟩ | ⟨h, -⟩ := orZero_cases ((paddedDecimal (Nat.log2 n + 1) n []).dropWhile (· == charZero))
  · exact h
  · rw [h] at h0
    exact absurd h0 (head?_dropWhile_zero _)

theorem fractionText_spec (p : Nat) {fp : Nat} (hfp : fp < 10 ^ p) :
    AllDigits (fractionText p fp) ∧ fractionText p fp ≠ [] ∧
      ((fractionText p fp).getLast? = some 0x30 → fractionText p fp = [0x30]) ∧
      (digitsValue (fractionText p fp) : ℚ) / 10 ^ (fractionText p fp).length = fp / 10 ^ p := by
  have hdigits := allDigits_paddedDecimal p fp
  obtain ⟨k, hk⟩ := stripZeros_append_zeros (paddedDecimal p fp [])
  have hvalue := digitsValue_div_append_zeros (stripZeros (paddedDecimal p fp [])) k
  rw [← hk, digitsValue_paddedDecimal, Nat.mod_eq_of_lt hfp, length_paddedDecimal, List.length_nil, Nat.add_zero] at hvalue
  rw [fractionText_eq]
  refine ⟨allDigits_orZero fun c hc => hdigits c ?_, orZero_ne_nil _, fun h0 => ?_, (digitsValue_orZero _).2.trans hvalue.symm⟩
  · rw [hk]; exact List.mem_append_left _ hc
  · obtain ⟨h, -⟩ | ⟨h, -⟩ := orZero_cases (stripZeros (paddedDecimal p fp []))
    · exact h
    · rw [h, stripZeros, List.getLast?_reverse] at h0
      exact absurd h0 (head?_dropWhile_zero _)

/-! ### The numeral -/

theorem unitsPerOne_pos : 0 < unitsPerOne := by positivity

theorem cast_unitsPerOne : (unitsPerOne : ℚ) = 2 ^ 1074 := by rw [Nat.cast_pow, Nat.cast_ofNat]

/-- A finite value is written as the integer n nearest to it in units of 10^−P, digits before and after the point (R318). -/
theorem formatFinite_spec (neg : Bool) (p units : Nat) :
    ∃ a b n, IsDecimalOutput (formatFinite neg p units) neg p a b ∧ NearestInt ((units : ℚ) / 2 ^ 1074 * 10 ^ p) n ∧
      numeralValue a b = n / 10 ^ p := by
  have hnear := nearestInt_roundHalfEven (units * 10 ^ p) unitsPerOne_pos
  rw [Nat.cast_mul, Nat.cast_pow, Nat.cast_ofNat, cast_unitsPerOne, mul_div_right_comm] at hnear
  set n := roundHalfEven (units * 10 ^ p) unitsPerOne
  have hpos : 0 < 10 ^ p := by positivity
  obtain ⟨hda, hna, hza, hva⟩ := decimalText_spec (n / 10 ^ p)
  obtain ⟨hdb, hnb, hzb, hvb⟩ := fractionText_spec p (Nat.mod_lt n hpos)
  refine ⟨_, _, n, ⟨rfl, List.forall_mem_append.2 ⟨hda, hdb⟩, hna, hnb, length_fractionText_le _ _, hza, hzb⟩, hnear, ?_⟩
  have hsplit : (n : ℚ) = (n / 10 ^ p : Nat) * 10 ^ p + (n % 10 ^ p : Nat) := by exact_mod_cast (Nat.div_add_mod' n _).symm
  rw [numeralValue, hva, hvb, hsplit, add_div, mul_div_cancel_right₀ _ (by positivity)]

theorem roundHalfEven_zero {b : Nat} (hb : 0 < b) : roundHalfEven 0 b = 0 := roundHalfEven_mul_left hb 0

/-- Zero is written "0.0" at every precision. -/
theorem formatFinite_zero (neg : Bool) (p : Nat) : formatFinite neg p 0 = signed neg tokenZero := by
  have hfrac : fractionText p 0 = fractionText 0 0 := by simpa using fractionText_mul_ten_pow 0 p 0
  simp only [formatFinite, Nat.zero_mul, roundHalfEven_zero unitsPerOne_pos, Nat.zero_div, Nat.zero_mod, hfrac]
  rfl

end Sys2Proof.Proofs
end

section
/-! The binary64 value of a pattern (44_decode.md R315 to R317): the rounded sums of the mantissa bits, and the rounded product
with the power of two. For mw ≤ 52 every sum is exact. -/

namespace Sys2Proof.Proofs

open Sys2Proof Sys2Proof.Machine Sys2Proof.Claims Sys2Proof.Laws

/-! ### Nearest binary64 values -/

/-- N times a power of two is a binary64 value when N has at most 53 bits, in the range of the normal numbers. -/
theorem isBinary64_mul_two_pow_sub {N i j : ℕ} (hlo : 2 ^ i ≤ N) (hhi : N < 2 ^ (i + 1)) (hi : i ≤ 52) (hj : 52 ≤ j)
    (hj' : j < 2098) : IsBinary64 (N * 2 ^ (j - i)) := by
  have hpos (k : ℕ) : 0 < 2 ^ k := Nat.two_pow_pos k
  refine ⟨N * 2 ^ (52 - i), j - 52, ?_, ?_, .inr ?_, ?_⟩
  · rw [mul_assoc, ← pow_add, show 52 - i + (j - 52) = j - i by omega]
  · calc N * 2 ^ (52 - i) < 2 ^ (i + 1) * 2 ^ (52 - i) := Nat.mul_lt_mul_of_pos_right hhi (hpos _)
      _ = 2 ^ 53 := by rw [← pow_add, show i + 1 + (52 - i) = 53 by omega]
  · calc 2 ^ 52 = 2 ^ i * 2 ^ (52 - i) := by rw [← pow_add, Nat.add_sub_cancel' hi]
      _ ≤ N * 2 ^ (52 - i) := Nat.mul_le_mul_right _ hlo
  · calc N * 2 ^ (j - i) < 2 ^ (i + 1) * 2 ^ (j - i) := Nat.mul_lt_mul_of_pos_right hhi (hpos _)
      _ = 2 ^ (j + 1) := by rw [← pow_add, show i + 1 + (j - i) = j + 1 by omega]
      _ ≤ 2 ^ 2098 := pow_le_pow_right₀ one_le_two hj'

theorem isBinary64_two_pow {j : ℕ} (hj : 52 ≤ j) (hj' : j < 2098) : IsBinary64 (2 ^ j) := by
  have h := isBinary64_mul_two_pow_sub (N := 1) (i := 0) le_rfl one_lt_two (Nat.zero_le _) hj hj'
  rwa [one_mul, Nat.sub_zero] at h

/-- Below 2^53 units of 2^(k+1) a binary64 value is at most the last whole one, half a unit below the midpoint. -/
theorem lt_midpoint_of_isBinary64 {v k : ℕ} (hv : IsBinary64 v) (hmax : v < 2 ^ 53 * 2 ^ (k + 1)) :
    (v : ℚ) < (2 ^ 54 - 1) * 2 ^ k := by
  have hpos : (0 : ℚ) < 2 ^ k := by positivity
  obtain ⟨j, rfl⟩ | ⟨-, hlt⟩ := multiple_or_lt_of_isBinary64 hv (k + 1)
  · have hj : (j : ℚ) + 1 ≤ 2 ^ 53 := by exact_mod_cast Nat.lt_of_mul_lt_mul_right hmax
    rw [Nat.cast_mul, Nat.cast_pow, Nat.cast_ofNat, pow_succ' 2 k, ← mul_assoc]
    exact mul_lt_mul_of_pos_right (by linarith) hpos
  · have hlt : (v : ℚ) < 2 ^ 52 * 2 ^ (k + 1) := by exact_mod_cast hlt
    rw [pow_succ' 2 k, ← mul_assoc] at hlt
    exact hlt.trans (mul_lt_mul_of_pos_right (by norm_num) hpos)

/-- Every finite binary64 value is below the overflow threshold. -/
theorem lt_overflowUnits_of_isBinary64 {v : ℕ} (hv : IsBinary64 v) : (v : ℚ) < overflowUnits := by
  obtain ⟨m, e, -, -, -, hmax⟩ := id hv
  rw [show 2098 = 53 + (2044 + 1) from rfl, pow_add] at hmax
  rw [overflowUnits_eq]
  exact lt_midpoint_of_isBinary64 hv hmax

/-- Rounding does not pass a binary64 value. -/
theorem le_of_nearest64 {q : ℚ} {u v : ℕ} (h : Nearest64 q u) (hv : IsBinary64 v) (hq : q ≤ v) : u ≤ v := by
  obtain ⟨hle, -⟩ := h.2 v hv
  rw [abs_of_nonneg (sub_nonneg.2 hq)] at hle
  have := (le_abs_self _).trans hle
  exact_mod_cast (by linarith : (u : ℚ) ≤ v)

/-- A binary64 value rounds to itself. -/
theorem eq_of_nearest64 {u v : ℕ} (h : Nearest64 v u) (hv : IsBinary64 v) : u = v := by
  obtain ⟨hle, -⟩ := h.2 v hv
  rw [sub_self, abs_zero, abs_nonpos_iff, sub_eq_zero] at hle
  exact_mod_cast hle

theorem round64_finite_of_lt {num den : ℕ} (hden : 0 < den) {q : ℚ} (hq : q = (num : ℚ) * 2 ^ 1074 / den)
    (hlt : q < overflowUnits) : ∃ u, round64 num den = .finite u ∧ Nearest64 q u := by
  obtain ⟨hnear, hover⟩ := round64IsNearestEven num den hden q hq
  cases hround : round64 num den with
  | finite u => exact ⟨u, rfl, hnear u hround⟩
  | infinite => exact absurd (hover.1 hround) hlt.not_ge

theorem round64_zero {den : ℕ} (hden : 0 < den) : round64 0 den = .finite 0 := by
  rw [round64, Nat.zero_mul, roundHalfEven_zero (Nat.mul_pos hden (Nat.two_pow_pos _)), Nat.zero_mul]
  exact if_pos (pow_pos two_pos _)

/-! ### The rounded sums -/

/-- The sum of R315 after the i highest of the mw mantissa bits. -/
def mantissaSum (mw : ℕ) (p : Container) (i : ℕ) : Binary64 :=
  (List.range i).foldl (fun acc i => if p.bit (mw - 1 - i) then acc.add (nptRead i) else acc) .one

theorem mantissaMagnitude_eq (mw : ℕ) (p : Container) : mantissaMagnitude mw p = mantissaSum mw p mw := rfl

theorem mantissaSum_zero (mw : ℕ) (p : Container) : mantissaSum mw p 0 = .finite unitsPerOne := rfl

theorem mantissaSum_succ (mw : ℕ) (p : Container) (i : ℕ) :
    mantissaSum mw p (i + 1) =
      if p.bit (mw - 1 - i) then (mantissaSum mw p i).add (nptRead i) else mantissaSum mw p i := by
  rw [mantissaSum, List.range_succ, List.foldl_append]
  rfl

theorem nptRead_eq {i : ℕ} (hi : i < 255) : nptRead i = .finite (2 ^ (1074 - (i + 1))) := by
  simp [nptRead, npt, hi]

/-- Adding 2^−(i+1) to a finite value is one rounding, and at most doubles a bound that is a power of two. -/
theorem add_nptRead {a i : ℕ} (hi : i < 255) (ha : a ≤ 2 ^ (1074 + i)) :
    ∃ u, (Binary64.finite a).add (nptRead i) = .finite u ∧ Nearest64 (a + 2 ^ (1074 - (i + 1))) u ∧
      u ≤ 2 ^ (1074 + (i + 1)) := by
  have hbound : a + 2 ^ (1074 - (i + 1)) ≤ 2 ^ (1074 + (i + 1)) := by
    have hsmall : 2 ^ (1074 - (i + 1)) ≤ 2 ^ (1074 + i) := Nat.pow_le_pow_right two_pos (by omega)
    rw [← Nat.add_assoc, pow_succ]
    omega
  have hbinary := isBinary64_two_pow (j := 1074 + (i + 1)) (by omega) (by omega)
  have hq : (a : ℚ) + 2 ^ (1074 - (i + 1)) ≤ (2 ^ (1074 + (i + 1)) : ℕ) := by exact_mod_cast hbound
  have hexact : (a : ℚ) + 2 ^ (1074 - (i + 1)) = (a + 2 ^ (1074 - (i + 1)) : ℕ) * 2 ^ 1074 / unitsPerOne := by
    rw [cast_unitsPerOne, mul_div_cancel_right₀ _ (by positivity), Nat.cast_add, Nat.cast_pow, Nat.cast_ofNat]
  obtain ⟨u, hround, hnear⟩ :=
    round64_finite_of_lt unitsPerOne_pos hexact (hq.trans_lt (lt_overflowUnits_of_isBinary64 hbinary))
  exact ⟨u, by rw [nptRead_eq hi, Binary64.add, hround], hnear, le_of_nearest64 hnear hbinary hq⟩

/-- The units of a finite value. -/
def unitsOf : Binary64 → ℕ
  | .finite u => u
  | .infinite => 0

/-- The sums stay finite: each of the at most 254 additions at most doubles the bound. -/
theorem mantissaSum_finite (mw : ℕ) (p : Container) {i : ℕ} (hi : i ≤ 255) :
    mantissaSum mw p i = .finite (unitsOf (mantissaSum mw p i)) ∧ unitsOf (mantissaSum mw p i) ≤ 2 ^ (1074 + i) := by
  induction i with
  | zero => exact ⟨rfl, by rw [Nat.add_zero, mantissaSum_zero, unitsOf]⟩
  | succ i ih =>
    obtain ⟨hfin, hle⟩ := ih (Nat.le_of_succ_le hi)
    rw [mantissaSum_succ]
    split
    · obtain ⟨u, hu, -, hbound⟩ := add_nptRead hi hle
      rw [hfin, hu]
      exact ⟨rfl, hbound⟩
    · exact ⟨hfin, hle.trans (Nat.pow_le_pow_right two_pos (by omega))⟩

theorem mantissaSums_mantissaSum {mw : ℕ} (hmw : mw ≤ 255) {p : Container} (hp : p.wf) :
    MantissaSums mw p.bits fun i => unitsOf (mantissaSum mw p i) := by
  refine ⟨by rfl, fun i hi => ?_⟩
  have hi255 := hi.trans_le hmw
  obtain ⟨hfin, hle⟩ := mantissaSum_finite mw p hi255.le
  obtain ⟨u, hu, hnear, -⟩ := add_nptRead hi255 hle
  simp only [mantissaSum_succ, bit_eq_testBit hp]
  split
  · rw [hfin, hu]
    exact hnear
  · rfl

/-- The i + 1 highest of mw bits are the i highest and one more. -/
theorem highBits_succ {mw bits i : ℕ} (hi : i < mw) :
    bits / 2 ^ (mw - (i + 1)) % 2 ^ (i + 1) =
      2 * (bits / 2 ^ (mw - i) % 2 ^ i) + (bits.testBit (mw - 1 - i)).toNat := by
  have hhalf : bits / 2 ^ (mw - (i + 1)) / 2 = bits / 2 ^ (mw - i) := by
    rw [Nat.div_div_eq_div_mul, ← pow_succ, show mw - (i + 1) + 1 = mw - i by omega]
  rw [Nat.toNat_testBit, pow_succ' 2 i, Nat.mod_mul, hhalf, show mw - 1 - i = mw - (i + 1) by omega, Nat.add_comm]

/-- For mw ≤ 52 each sum is exact: one and the fraction that the i highest mantissa bits show. -/
theorem mantissaSums_exact {mw bits : ℕ} {acc : ℕ → ℕ} (h : MantissaSums mw bits acc) (hmw : mw ≤ 52) {i : ℕ} (hi : i ≤ mw) :
    acc i = (2 ^ i + bits / 2 ^ (mw - i) % 2 ^ i) * 2 ^ (1074 - i) := by
  obtain ⟨hzero, hstep⟩ := h
  induction i with
  | zero => rw [hzero, pow_zero, Nat.mod_one, Nat.sub_zero, Nat.add_zero, Nat.one_mul]
  | succ i ih =>
    have hbit := hstep i hi
    have hhigh := highBits_succ (bits := bits) hi
    have hbits : 2 ^ (i + 1) + bits / 2 ^ (mw - (i + 1)) % 2 ^ (i + 1) < 2 ^ (i + 1 + 1) := by
      rw [pow_succ 2 (i + 1), mul_two]
      exact Nat.add_lt_add_left (Nat.mod_lt _ (Nat.two_pow_pos _)) _
    rw [ih (Nat.le_of_succ_le hi), show 1074 - i = 1074 - (i + 1) + 1 by omega, pow_succ 2 (1074 - (i + 1))] at hbit
    split at hbit
    · next hone =>
      rw [hone, Bool.toNat_true] at hhigh
      refine eq_of_nearest64 ?_
        (isBinary64_mul_two_pow_sub (Nat.le_add_right _ _) hbits (hi.trans hmw) (by omega) (by omega))
      convert hbit using 1
      rw [hhigh]
      push_cast
      ring
    · next hone =>
      rw [Bool.not_eq_true] at hone
      rw [hone, Bool.toNat_false] at hhigh
      rw [hbit, hhigh]
      ring

/-! ### The rounded product -/

section Product

variable {l : Layout} {p : Container}

theorem patternMagnitude_of_gt (hmw : l.mw ≤ 255) (he : (1023 : ℤ) < (l.expf p : ℤ) - l.bias) :
    patternMagnitude l p = .infinite := by
  rw [patternMagnitude, mantissaMagnitude_eq, (mantissaSum_finite l.mw p hmw).1, pow2, if_pos he]
  rfl

theorem patternMagnitude_of_lt (hmw : l.mw ≤ 255) (he : (l.expf p : ℤ) - l.bias < -1074) :
    patternMagnitude l p = .finite 0 := by
  rw [patternMagnitude, mantissaMagnitude_eq, (mantissaSum_finite l.mw p hmw).1, pow2, if_neg (by omega), if_pos he,
    Binary64.zero, Binary64.mul, Nat.mul_zero, round64_zero (Nat.mul_pos unitsPerOne_pos unitsPerOne_pos)]

/-- In the exponent range of binary64 the value is the last sum times 2^e, rounded once. -/
theorem patternMagnitude_in_range {a : ℕ} (ha : mantissaMagnitude l.mw p = .finite a) {e : ℤ}
    (he : e = (l.expf p : ℤ) - l.bias) (hlo : -1074 ≤ e) (hhi : e ≤ 1023) :
    (overflowUnits ≤ a * (2 : ℚ) ^ e → patternMagnitude l p = .infinite) ∧
      (a * (2 : ℚ) ^ e < overflowUnits → ∃ v, patternMagnitude l p = .finite v ∧ Nearest64 (a * (2 : ℚ) ^ e) v) := by
  obtain ⟨k, hk⟩ := Int.eq_ofNat_of_zero_le (show 0 ≤ e + 1074 by omega)
  have hden : 0 < unitsPerOne * unitsPerOne := Nat.mul_pos unitsPerOne_pos unitsPerOne_pos
  have hpow2 : pow2 e = .finite (2 ^ k) := by rw [pow2, if_neg (by omega), if_neg (by omega), hk, Int.toNat_natCast]
  have hq : (a : ℚ) * 2 ^ e = (a * 2 ^ k : ℕ) * 2 ^ 1074 / (unitsPerOne * unitsPerOne : ℕ) := by
    rw [Nat.cast_mul unitsPerOne, cast_unitsPerOne, mul_div_mul_right _ _ (by positivity), Nat.cast_mul, mul_div_assoc,
      Nat.cast_pow, Nat.cast_ofNat, show e = (k : ℤ) - (1074 : ℕ) by omega, zpow_sub₀ two_ne_zero, zpow_natCast, zpow_natCast]
  rw [patternMagnitude, ha, ← he, hpow2, Binary64.mul]
  exact ⟨(round64IsNearestEven _ _ hden _ hq).2.2, round64_finite_of_lt hden hq⟩

end Product

end Sys2Proof.Proofs
end

section
/-! DECODE of a number (44_decode.md R314 to R319, R321). -/

namespace Sys2Proof.Proofs

open Sys2Proof Sys2Proof.Machine Sys2Proof.Claims Sys2Proof.Laws

/-- The table NPT covers every mantissa (R211, R315). -/
theorem mantissaWidth_le {l : Layout} (hl : l.valid) : l.mw ≤ 255 := by
  obtain ⟨-, hew, -, hw, -⟩ := hl
  have hw : l.sw + l.ew + l.mw ≤ 256 := hw
  omega

/-- Settles O37: the power of two is then infinite or 0, and so is its product with the finite magnitude. -/
theorem decodeOutsideBinary64Range : Obligations.DecodeOutsideBinary64Range := by
  rintro s p l h hv rfl hp hgood hlen he hm
  have hl := layout_valid_of_inv h hv
  obtain ⟨-, hwf, -⟩ := id hp
  have hnumber := decodePattern_of_number hl hwf he hm s.prec.toNat
  have hexp : s.lr.layout.expf p = expOf s.lr.layout p.bits := expf_eq hwf
  rw [← hexp]
  refine ⟨fun hgt => decode_writes hv hlen hgood hp ?_, fun hlt => decode_writes hv hlen hgood hp ?_⟩
  · rw [hnumber, patternMagnitude_of_gt (mantissaWidth_le hl) hgt]
    rfl
  · rw [hnumber, patternMagnitude_of_lt (mantissaWidth_le hl) hlt, formatValue, formatFinite_zero]
    rfl

/-- For mw ≤ 52 and a normal exponent the product is exact: it is itself a binary64 value. -/
theorem exact_product {mw bits : ℕ} {acc : ℕ → ℕ} (h : MantissaSums mw bits acc) (hmw : mw ≤ 52) {e : ℤ} (hlo : -1022 ≤ e)
    (hhi : e ≤ 1023) : ∃ v, IsBinary64 v ∧ acc mw * (2 : ℚ) ^ e = v ∧
      (v : ℚ) / 2 ^ 1074 = (1 + (bits % 2 ^ mw : ℕ) / 2 ^ mw) * (2 : ℚ) ^ e := by
  obtain ⟨k, hk⟩ := Int.eq_ofNat_of_zero_le (show 0 ≤ e + 1022 by omega)
  have hmod : bits % 2 ^ mw < 2 ^ mw := Nat.mod_lt _ (Nat.two_pow_pos _)
  have hacc : (acc mw : ℚ) = (2 ^ mw + (bits % 2 ^ mw : ℕ)) * (2 ^ 1074 / 2 ^ mw) := by
    rw [mantissaSums_exact h hmw le_rfl, Nat.sub_self, pow_zero, Nat.div_one, Nat.cast_mul, Nat.cast_pow, Nat.cast_ofNat,
      pow_sub₀ _ two_ne_zero (by omega), Nat.cast_add, Nat.cast_pow, Nat.cast_ofNat, div_eq_mul_inv]
  have hv : acc mw * (2 : ℚ) ^ e = ((2 ^ mw + bits % 2 ^ mw) * 2 ^ (52 + k - mw) : ℕ) := by
    rw [hacc, Nat.cast_mul, Nat.cast_pow, Nat.cast_ofNat, pow_sub₀ _ two_ne_zero (by omega), Nat.cast_add, Nat.cast_pow,
      Nat.cast_ofNat, show e = ((52 + k : ℕ) : ℤ) - (1074 : ℕ) by omega, zpow_sub₀ two_ne_zero, zpow_natCast, zpow_natCast]
    field_simp
  refine ⟨_, isBinary64_mul_two_pow_sub (Nat.le_add_right _ _) (by rw [pow_succ]; omega) hmw (by omega) (by omega), hv, ?_⟩
  rw [← hv, hacc]
  field_simp

/-- The integer nearest to x·10^P is within half a unit of the P-th decimal of x. -/
theorem abs_div_ten_pow_sub_le {x : ℚ} {p n : ℕ} (h : NearestInt (x * 10 ^ p) n) : |(n : ℚ) / 10 ^ p - x| ≤ 1 / (2 * 10 ^ p) := by
  have hpos : (0 : ℚ) < 10 ^ p := by positivity
  rw [← div_div, ← mul_div_cancel_right₀ x hpos.ne', ← sub_div, abs_div, abs_of_pos hpos]
  exact div_le_div_of_nonneg_right h.1 hpos.le

/-- DECODE of a pattern of finite value writes a numeral of R318. -/
theorem decode_writes_finite {s : State} (hv : s.lr.valid = true) (hlen : s.tinLen.toNat = s.lr.layout.width)
    (hgood : ¬BadBit s) {p : Container} (hp : ShowsTin s p) {neg : Bool} {v : ℕ}
    (hx : decodePattern s.lr.layout s.prec.toNat p = formatFinite neg s.prec.toNat v) :
    ∃ t x a b n, exec .decode s = .next t ∧ WroteTout x s t ∧ IsDecimalOutput x neg s.prec.toNat a b ∧
      NearestInt ((v : ℚ) / 2 ^ 1074 * 10 ^ s.prec.toNat) n ∧ numeralValue a b = n / 10 ^ s.prec.toNat := by
  obtain ⟨t, ht, hw⟩ := decode_writes hv hlen hgood hp hx
  obtain ⟨a, b, n, hout, hnear, hvalue⟩ := formatFinite_spec neg s.prec.toNat v
  exact ⟨t, _, a, b, n, ht, hw, hout, hnear, hvalue⟩

/-- Settles O36: the sums, the product and the digits are the model's; the second part is the first with an exact product. -/
theorem decodeIsWithinHalfADigit : Obligations.DecodeIsWithinHalfADigit := by
  rintro s p l h hv rfl hp hgood hlen he hm e hexp hlo hhi
  have hl := layout_valid_of_inv h hv
  have hmw := mantissaWidth_le hl
  obtain ⟨-, hwf, -⟩ := id hp
  have hnumber := decodePattern_of_number hl hwf he hm s.prec.toNat
  have hsums := mantissaSums_mantissaSum hmw hwf
  obtain ⟨hmag, -⟩ := mantissaSum_finite s.lr.layout.mw p hmw
  obtain ⟨hinf, hfin⟩ := patternMagnitude_in_range hmag (hexp.trans (by rw [expf_eq hwf, expOf])) hlo hhi
  refine ⟨⟨_, hsums, fun hover => decode_writes hv hlen hgood hp ?_, fun hlt => ?_⟩, fun hmw52 hnormal => ?_⟩
  · rw [hnumber, hinf hover]
    rfl
  · obtain ⟨v, hvalue, hround⟩ := hfin hlt
    rw [hvalue] at hnumber
    obtain ⟨t, x, a, b, n, ht, hw, hout, hdigits⟩ := decode_writes_finite hv hlen hgood hp hnumber
    exact ⟨t, x, a, b, v, n, ht, hw, hout, hround, hdigits⟩
  · obtain ⟨v, hbinary, hproduct, hexact⟩ := exact_product hsums hmw52 hnormal hhi
    rw [hproduct] at hfin
    obtain ⟨u, hvalue, hround⟩ := hfin (lt_overflowUnits_of_isBinary64 hbinary)
    obtain rfl := eq_of_nearest64 hround hbinary
    rw [hvalue] at hnumber
    obtain ⟨t, x, a, b, n, ht, hw, hout, hnear, hdigits⟩ := decode_writes_finite hv hlen hgood hp hnumber
    refine ⟨t, x, a, b, ht, hw, hout, ?_⟩
    rw [hdigits, manOf, ← hexact]
    exact abs_div_ten_pow_sub_le hnear

end Sys2Proof.Proofs
end

section
/-! How a command completes (60_exceptions.md R352 to R357): it succeeds or writes STATUS alone, it reports the first of its
error conditions in the order of their codes, and no step stops. -/

namespace Sys2Proof.Proofs

open Sys2Proof Sys2Proof.Machine Sys2Proof.Claims Sys2Proof.Laws

/-! ### Success or failure, and no trap -/

theorem errs_of_commandWrites {i : Instr} {s u : State} (h : CommandWrites i s u) : u.errs = s.errs := by
  cases h <;> rfl

/-- Settles O40: a command ends with its writes, none of which is to ERRS, or with an error raised. -/
theorem failureWritesOnlyStatus : Obligations.FailureWritesOnlyStatus := by
  intro i s
  have hends := exec_ends i s
  generalize exec i s = o at hends
  cases hends with
  | @success u hu => exact ⟨_, rfl, .inl ⟨rfl, errs_of_commandWrites (u := u) hu, rfl⟩⟩
  | failure he => exact ⟨_, rfl, .inr ⟨he, failed_raiseError _ s⟩⟩

theorem runCommand_answers_next (w : Word) (s : State) : ∃ t, runCommand w s = .next t := by
  rw [runCommand]
  split
  · obtain ⟨t, ht, -⟩ := failureWritesOnlyStatus _ s
    exact ⟨t, ht⟩
  · exact ⟨_, rfl⟩

/-- Settles O45: the outside always leaves a next state, and so does the command of a busy engine. -/
theorem everyStepAnswersNext : Obligations.EveryStepAnswersNext := by
  intro s
  rw [step, machineStep]
  split
  · exact ⟨_, rfl⟩
  · split
    · exact ⟨_, rfl⟩
    · split
      · exact runCommand_answers_next _ s
      · exact ⟨_, rfl⟩

/-! ### Checks made one after the other -/

/-- What a command that makes these checks in this order answers: the code of the first condition that holds, or its writes. -/
inductive Reports : List (ErrorCode × Prop) → Except ErrorCode State → Prop where
  | done (u : State) : Reports [] (.ok u)
  | raise {e : ErrorCode} {p : Prop} {cs : List (ErrorCode × Prop)} (h : p) : Reports ((e, p) :: cs) (.error e)
  | pass {e : ErrorCode} {p : Prop} {cs : List (ErrorCode × Prop)} {r : Except ErrorCode State} (h : ¬p)
      (hr : Reports cs r) : Reports ((e, p) :: cs) r

section Reports

variable {cs : List (ErrorCode × Prop)} {r : Except ErrorCode State}

theorem Reports.skip {e : ErrorCode} (h : Reports cs r) : Reports ((e, False) :: cs) r := .pass id h

theorem Reports.check {e : ErrorCode} {p q : Prop} [Decidable q] (hq : q ↔ p) (h : Reports cs r) :
    Reports ((e, p) :: cs) (if q then .error e else r) := by
  split
  · next hholds => exact .raise (hq.1 hholds)
  · next hfails => exact .pass (mt hq.2 hfails) h

theorem ok_of_reports (h : Reports cs r) (hnone : ∀ c ∈ cs, ¬c.2) : ∃ u, r = .ok u := by
  induction h with
  | done u => exact ⟨u, rfl⟩
  | raise h => exact absurd h (hnone _ List.mem_cons_self)
  | pass _ _ ih => exact ih fun c hc => hnone c (List.mem_cons_of_mem _ hc)

/-- When the checks come in the order of their codes, the condition of the least code is the one reported. -/
theorem error_of_reports (h : Reports cs r) (hsorted : cs.Pairwise (·.1.code < ·.1.code)) {e : ErrorCode} {p : Prop}
    (hmem : (e, p) ∈ cs) (hp : p) (hfirst : ∀ c ∈ cs, c.1.code < e.code → ¬c.2) : r = .error e := by
  induction h with
  | done u => cases hmem
  | raise h =>
    cases hmem with
    | head => rfl
    | tail _ hmem => exact absurd h (hfirst _ List.mem_cons_self (List.rel_of_pairwise_cons hsorted hmem))
  | pass h _ ih =>
    cases hmem with
    | head => exact absurd hp h
    | tail _ hmem => exact ih hsorted.of_cons hmem fun c hc => hfirst c (List.mem_cons_of_mem _ hc)

end Reports

/-! ### The checks of the commands -/

/-- The error codes a command can report, in ascending order (R355). -/
def commandErrors : List ErrorCode := [.layout, .capacity, .range, .length, .bits, .text]

/-- The conditions of a command, in the order in which they are reported (R355, R356). -/
def conditions (i : Instr) (s : State) : List (ErrorCode × Prop) := commandErrors.map fun e => (e, ErrorCondition i s e)

theorem conditions_sorted (i : Instr) (s : State) : (conditions i s).Pairwise (·.1.code < ·.1.code) :=
  have hcodes : commandErrors.Pairwise (·.code < ·.code) := by decide
  List.pairwise_map.2 hcodes

theorem mem_conditions {i : Instr} {s : State} {e : ErrorCode} (h : ErrorCondition i s e) :
    (e, ErrorCondition i s e) ∈ conditions i s := by
  have he : e ∈ commandErrors := by
    cases e with
    | ok | illegal => exact h.elim
    | _ => decide
  exact List.mem_map_of_mem he

/-- What holds of every condition of the table holds of every entry of the list. -/
theorem forall_conditions {i : Instr} {s : State} {P : ErrorCode → Prop → Prop} (h : ∀ e, P e (ErrorCondition i s e)) :
    ∀ c ∈ conditions i s, P c.1 c.2 :=
  List.forall_mem_map.2 fun e _ => h e

/-- The command makes exactly the checks of the table of R356, in the order of their codes. -/
def ChecksConditions (i : Instr) (s : State) : Prop := ∃ r, exec i s = settle s r ∧ Reports (conditions i s) r

section Checks

variable {i : Instr} {s : State}

theorem sizedWrite_checks {cd : CReg} {n : Nat} {v : Container} (hi : exec i s = settle s (sizedWrite s cd n v))
    (hc : conditions i s =
      [(.layout, False), (.capacity, 256 < n), (.range, False), (.length, False), (.bits, False), (.text, False)]) :
    ChecksConditions i s :=
  ⟨_, hi, hc ▸ .skip (.check .rfl (.skip (.skip (.skip (.skip (.done _))))))⟩

theorem ranged_checks {lo hi : Nat} {u : State} (h : exec i s = settle s (ranged lo hi u))
    (hc : conditions i s =
      [(.layout, False), (.capacity, 256 < hi), (.range, hi < lo), (.length, False), (.bits, False), (.text, False)]) :
    ChecksConditions i s :=
  ⟨_, h, hc ▸ .skip (.check .rfl (.check .rfl (.skip (.skip (.skip (.done _))))))⟩

theorem constructTo_checks {cd : CReg} {v : SpecialValue} (hi : exec i s = settle s (constructTo s cd v))
    (hc : conditions i s =
      [(.layout, s.lr.valid = false), (.capacity, False), (.range, False), (.length, False), (.bits, False), (.text, False)]) :
    ChecksConditions i s := by
  refine ⟨_, hi, hc ▸ ?_⟩
  obtain ⟨hv, hok⟩ | ⟨hv, herr⟩ := constructTo_cases s cd v
  · rw [hok]
    exact .pass ((Bool.not_eq_false _).mpr hv) (.skip (.skip (.skip (.skip (.skip (.done _))))))
  · rw [herr]
    exact .raise hv

end Checks

theorem lsel_checks (idx : Nat) (s : State) : ChecksConditions (.lsel idx) s := by
  cases hrom : layoutRom[idx]? with
  | none => exact ⟨_, exec_lsel_of_none hrom, .raise (List.getElem?_eq_none_iff.1 hrom)⟩
  | some l =>
    obtain ⟨hidx, -⟩ := List.getElem?_eq_some_iff.1 hrom
    exact ⟨_, exec_lsel_of_some hrom, .pass hidx.not_ge (.skip (.skip (.skip (.skip (.skip (.done _))))))⟩

theorem lset_checks (sw : Bool) (ew mw : Nat) (s : State) : ChecksConditions (.lset sw ew mw) s := by
  refine ⟨_, rfl, ?_⟩
  have hiff := valid_iff_validRecord ⟨sw.toNat, ew, mw, s.din0.toNat⟩
  split
  · next hl => exact .pass (not_not.2 (hiff.1 hl)) (.skip (.skip (.skip (.skip (.skip (.done _))))))
  · next hl => exact .raise (mt hiff.2 hl)

theorem classify_checks (cd ca : CReg) (s : State) : ChecksConditions (.classify cd ca) s := by
  cases hv : s.lr.valid with
  | false => exact ⟨_, exec_classify_of_invalid hv, .raise hv⟩
  | true =>
    have hlayout : ¬s.lr.valid = false := (Bool.not_eq_false _).mpr hv
    by_cases hsize : (s.getC ca).size = s.lr.layout.width
    · exact ⟨.ok _, exec_classify_of_size_eq hv hsize,
        .pass hlayout (.skip (.skip (.pass (not_not.2 hsize) (.skip (.skip (.done _))))))⟩
    · exact ⟨_, exec_classify_of_size_ne hv hsize, .pass hlayout (.skip (.skip (.raise hsize)))⟩

/-- The encoder refuses exactly the malformed texts (R273, R274). -/
theorem encodeText_cases (l : Layout) (s : State) :
    (¬MalformedText s ∧ ∃ p, encodeText l (inputText s) = .ok p) ∨
      (MalformedText s ∧ encodeText l (inputText s) = .error .text) := by
  by_cases hinf : infBytes <:+: Machine.normalize (inputText s)
  · exact .inl ⟨fun ⟨hno, _⟩ => hno hinf, _, encodeText_of_inf hinf⟩
  by_cases hnan : nanBytes <:+: Machine.normalize (inputText s)
  · exact .inl ⟨fun ⟨_, hno, _⟩ => hno hnan, _, encodeText_of_nan hinf hnan⟩
  have hparse := parseDecimal_eq_some_iff (Machine.normalize (inputText s))
  cases hx : parseDecimal (Machine.normalize (inputText s)) with
  | some x =>
    obtain ⟨neg, a, b, hn, -⟩ := (hparse x).1 hx
    exact .inl ⟨fun ⟨_, _, hno⟩ => hno ⟨neg, a, b, hn⟩, _, encodeText_of_parseDecimal hinf hnan hx⟩
  | none =>
    refine .inr ⟨⟨hinf, hnan, fun ⟨neg, a, b, hn⟩ => ?_⟩, ?_⟩
    · rw [(hparse _).2 ⟨neg, a, b, hn, rfl⟩] at hx
      cases hx
    · rw [encodeText]
      simp only [hx]
      exact (if_neg (mt (contains_iff _ _).1 hinf)).trans (if_neg (mt (contains_iff _ _).1 hnan))

theorem exec_encode_of_error {cd : CReg} {s : State} (hv : s.lr.valid = true) {e : ErrorCode}
    (he : encodeText s.lr.layout (inputText s) = .error e) : exec (.encode cd) s = settle s (.error e) := by
  change encodeText s.lr.layout s.tinText = .error e at he
  simp only [exec, execEncode, layoutOr_valid hv, he]

theorem encode_checks (cd : CReg) (s : State) : ChecksConditions (.encode cd) s := by
  cases hv : s.lr.valid with
  | false => exact ⟨_, exec_encode_of_invalid hv, .raise hv⟩
  | true =>
    have hlayout : ¬s.lr.valid = false := (Bool.not_eq_false _).mpr hv
    obtain ⟨hgood, p, hp⟩ | ⟨hbad, herr⟩ := encodeText_cases s.lr.layout s
    · exact ⟨_, exec_encode_of_ok hv hp, .pass hlayout (.skip (.skip (.skip (.skip (.pass hgood (.done _))))))⟩
    · exact ⟨_, exec_encode_of_error hv herr, .pass hlayout (.skip (.skip (.skip (.skip (.raise hbad)))))⟩

/-- DECODE with its two checks of the text written out (R311, R312). -/
theorem exec_decode_of_valid {s : State} (hv : s.lr.valid = true) :
    exec .decode s = settle s
      (if s.tinLen.toNat ≠ s.lr.layout.width then .error .length
       else if ¬isBitText s.tinText then .error .bits
       else .ok (s.putTout (decodePattern s.lr.layout s.prec.toNat (parseBits s.tinText)))) := by
  simp only [exec, execDecode, layoutOr_valid hv, decodeText, parsePattern, length_tinText]
  split_ifs <;> rfl

theorem decode_checks (s : State) : ChecksConditions .decode s := by
  cases hv : s.lr.valid with
  | false => exact ⟨_, exec_decode_of_invalid hv, .raise hv⟩
  | true =>
    have hlayout : ¬s.lr.valid = false := (Bool.not_eq_false _).mpr hv
    exact ⟨_, exec_decode_of_valid hv,
      .pass hlayout (.skip (.skip (.check .rfl (.check (not_isBitText_iff s) (.skip (.done _))))))⟩

/-- Every command makes exactly the checks of the table of R356, in the order of their codes. -/
theorem exec_checks (i : Instr) (s : State) : ChecksConditions i s := by
  cases i with
  | all0 | all1 | fromu8 | fromu16 | fromu32 | fromu64 | fromu128 | concat | resizeLo | resizeHi =>
    exact sizedWrite_checks rfl rfl
  | getsub | range0 | range1 => exact ranged_checks rfl rfl
  | get | render => exact ⟨.ok _, rfl, .skip (.skip (.skip (.skip (.skip (.skip (.done _))))))⟩
  | set => exact ⟨_, rfl, .skip (.skip (.check .rfl (.skip (.skip (.skip (.done _))))))⟩
  | parse => exact ⟨_, rfl, .skip (.check .rfl (.skip (.skip (.check (not_isBitText_iff s) (.skip (.done _))))))⟩
  | parseN =>
    exact ⟨_, rfl, .skip (.check .rfl (.skip (.check .rfl (.check (not_isBitText_iff s) (.skip (.done _))))))⟩
  | lsel idx => exact lsel_checks idx s
  | lset sw ew mw => exact lset_checks sw ew mw s
  | constructZero | constructInf | constructNan | constructSpsub | constructLsub | constructSpnorm | constructLnorm
  | constructLlt1 | constructOne | constructSgt1 => exact constructTo_checks rfl rfl
  | classify cd ca => exact classify_checks cd ca s
  | encode cd => exact encode_checks cd s
  | decode => exact decode_checks s

/-- Settles O39: the checks of a command are those of the table in ascending order, so the first that fails is reported. -/
theorem commandReportsItsFirstError : Obligations.CommandReportsItsFirstError := by
  refine ⟨fun i s _ => ?_, fun w s d hw => ⟨_, runCommand_of_error hw s, failed_raiseError .illegal s⟩⟩
  obtain ⟨r, hexec, hr⟩ := exec_checks i s
  obtain ⟨t, ht, -⟩ := failureWritesOnlyStatus i s
  refine ⟨t, ht, fun hnone => ?_, fun e he hfirst => ?_⟩
  · obtain ⟨u, rfl⟩ := ok_of_reports hr (forall_conditions (P := fun _ p => ¬p) hnone)
    cases ht.symm.trans hexec
    rfl
  · obtain rfl := error_of_reports hr (conditions_sorted i s) (mem_conditions he) he
      (forall_conditions (P := fun e' p => e'.code < e.code → ¬p) hfirst)
    cases ht.symm.trans hexec
    exact failed_raiseError e s

end Sys2Proof.Proofs
end

section
/-! The host beside a busy engine (70_reset_and_hazards.md R384 to R387): writes while it is busy (R385), and a host that polls
STATUS until the command is done. -/

namespace Sys2Proof.Proofs

open Sys2Proof Sys2Proof.Machine Sys2Proof.Claims Sys2Proof.Laws

/-! ### Steps of a busy engine -/

section Busy

variable {s : State} {w : Word} (hbusy : s.engine = .busy w)
include hbusy

theorem isBusy_of_busy : s.isBusy = true := by rw [State.isBusy, hbusy]

/-- Until its instant a busy engine lets the outside's next event pass (R384). -/
theorem step_before_instant (hr : s.resetLine = false) (hwait : s.wait ≠ 0) {e : HostEvent} {rest : List HostEvent}
    (hp : s.pending = e :: rest) : step s = .next (performEvent e { s with pending := rest, wait := s.wait - 1 }) := by
  have hreached : instantReached s = false := by simp [instantReached, hwait, hp]
  simp only [step, machineStep, hr, hbusy, hreached, hostStep, hp, Bool.false_eq_true, if_false]

/-- A legal write to CMD or an operand register is dropped and sets OVR while the engine is busy (R354, R385). -/
theorem hostWrite_of_busy_operand {off : BitVec 14} (v : Word) (hr : s.resetLine = false) (hoff : off.toNat % 4 = 0)
    (hop : OperandOffset off.toNat) : hostWrite s off 4 v = s.setOverrun.respond .done := by
  have hoperand := (isOperand_windowRegAt hoff).2 hop
  simp [hostWrite, legalAccess_of_aligned hoff, hr, isBusy_of_busy hbusy, hoperand]

/-- The host's WAIT goes on polling while BUSY reads 1 (R122, R387). -/
theorem step_of_busy_poll (hr : s.resetLine = false) (hwait : s.wait ≠ 0) {rest : List HostEvent}
    (hp : s.pending = .poll :: rest) : step s = .next { s with wait := s.wait - 1, response := some (.data (statusWord s)) } := by
  have hpolls := isBusy_of_busy (s := { s with pending := rest, wait := s.wait - 1 }) hbusy
  rw [step_before_instant hbusy hr hwait hp, performEvent, hostPoll, if_neg (Bool.eq_false_iff.1 hr), if_pos hpolls, hp]
  rfl

end Busy

/-- The host's WAIT ends with the first STATUS read whose BUSY is 0 (R122, R387). -/
theorem step_of_idle_poll {s : State} {rest : List HostEvent} (hidle : s.engine = .idle) (hr : s.resetLine = false)
    (hp : s.pending = .poll :: rest) :
    step s = .next { s with pending := rest, response := some (.data (statusWord s)) } := by
  have hends := isBusy_of_idle (s := { s with pending := rest }) hidle
  rw [step_of_idle hidle hr hp, performEvent, hostPoll, if_neg (Bool.eq_false_iff.1 hr), if_neg (Bool.eq_false_iff.1 hends)]
  rfl

/-! ### Writes while the engine is busy -/

theorem writeReg_pending (s : State) (r : WindowReg) (v : Word) : (writeReg s r v).pending = s.pending := by
  cases r <;> rfl

/-- A legal write leaves what the host does next as it is. -/
theorem hostWrite_pending (s : State) {off : BitVec 14} (v : Word) (hoff : off.toNat % 4 = 0) :
    (hostWrite s off 4 v).pending = s.pending := by
  rw [hostWrite, if_neg (not_not.2 (legalAccess_of_aligned hoff))]
  split_ifs
  · rfl
  · rfl
  · exact writeReg_pending s _ v

/-- Settles O51: a busy step with latency left performs the write, which the window drops, lets reach STATUS, or ignores. -/
theorem busyWritesAreDropped : Obligations.BusyWritesAreDropped := by
  intro s w v off rest hbusy hr hwait hp hoff
  refine ⟨_, step_before_instant hbusy hr hwait hp, hostWrite_pending _ v hoff, fun hop => ?_, fun hstatus => ?_,
    fun hop hstatus => ?_⟩
  · have hdropped := hostWrite_of_busy_operand (s := { s with pending := rest, wait := s.wait - 1 }) hbusy v hr hoff hop
    rw [performEvent, hdropped]
    exact sameBlock_respond _ _
  · obtain rfl : off = 0x000C := BitVec.eq_of_toNat_eq hstatus
    exact (statusBitsAndClearing { s with pending := rest, wait := s.wait - 1 } v hr).2
  · obtain ⟨-, hignored, -⟩ := refusedAndIgnoredAccesses { s with pending := rest, wait := s.wait - 1 } off 4 v hr
    exact (hignored hoff hop hstatus).1

/-! ### Commands beside another outside -/

/-- The block of `s` beside the outside of `o`: the model's own fields (log 1 to 3) are those of `o`. -/
def withOutside (s o : State) : State :=
  { s with wait := o.wait, draws := o.draws, pending := o.pending, response := o.response }

theorem sameBlock_withOutside (s o : State) : SameBlock s (withOutside s o) := by simp [SameBlock, withOutside]

/-- States that differ in the model's own fields only are one block beside two outsides. -/
theorem eq_withOutside_of_sameBlock {s t : State} (h : SameBlock s t) : t = withOutside s t := by
  cases s; cases t
  simpa [SameBlock, withOutside] using h

section Outside

variable (s o : State)

@[simp] theorem withOutside_getC (k : CReg) : (withOutside s o).getC k = s.getC k := rfl
@[simp] theorem withOutside_tinLen : (withOutside s o).tinLen = s.tinLen := rfl
@[simp] theorem withOutside_tinText : (withOutside s o).tinText = s.tinText := rfl
@[simp] theorem withOutside_prec : (withOutside s o).prec = s.prec := rfl
@[simp] theorem withOutside_din0 : (withOutside s o).din0 = s.din0 := rfl
@[simp] theorem withOutside_layoutOr : (withOutside s o).layoutOr = s.layoutOr := rfl

theorem sizedWrite_withOutside (cd : CReg) (n : Nat) (v : Container) :
    sizedWrite (withOutside s o) cd n v = (sizedWrite s cd n v).map (withOutside · o) := by
  unfold sizedWrite
  split <;> rfl

theorem ranged_withOutside (lo hi : Nat) : ranged lo hi (withOutside s o) = (ranged lo hi s).map (withOutside · o) := by
  unfold ranged
  split_ifs <;> rfl

theorem constructTo_withOutside (cd : CReg) (v : SpecialValue) :
    constructTo (withOutside s o) cd v = (constructTo s cd v).map (withOutside · o) := by
  unfold constructTo
  rw [withOutside_layoutOr]
  cases s.layoutOr <;> rfl

theorem putClass_withOutside (l : Layout) (cd : CReg) (p : Container) :
    putClass (withOutside s o) l cd p = withOutside (putClass s l cd p) o := by
  unfold putClass
  split <;> rfl

variable {s o}

/-- A result that is the same beside the outside of `o` settles in the same state of the block. -/
theorem settle_withOutside {t : State} {r r' : Except ErrorCode State} (h : settle s r = .next t)
    (hr : r' = r.map (withOutside · o)) : settle (withOutside s o) r' = .next (withOutside t o) := by
  subst hr
  cases r <;> cases h <;> rfl

/-- A command neither reads nor writes the model's own fields. -/
theorem exec_withOutside {i : Instr} {t : State} (h : exec i s = .next t) (o : State) :
    exec i (withOutside s o) = .next (withOutside t o) := by
  cases i with
  | all0 | all1 | fromu8 | fromu16 | fromu32 | fromu64 | fromu128 | concat | resizeLo | resizeHi =>
    exact settle_withOutside h (sizedWrite_withOutside s o _ _ _)
  | getsub cd => exact settle_withOutside h (ranged_withOutside (s.setC cd _) o _ _)
  | range0 | range1 => exact settle_withOutside h (ranged_withOutside (s.setBool _) o _ _)
  | get | render => cases h; rfl
  | constructZero | constructInf | constructNan | constructSpsub | constructLsub | constructSpnorm | constructLnorm
  | constructLlt1 | constructOne | constructSgt1 => exact settle_withOutside h (constructTo_withOutside s o _ _)
  | set cd n p =>
    refine settle_withOutside h ?_
    rw [withOutside_getC]
    split <;> rfl
  | parse | parseN =>
    refine settle_withOutside h ?_
    rw [withOutside_tinLen, withOutside_tinText]
    split_ifs <;> rfl
  | lsel idx =>
    refine settle_withOutside h ?_
    cases layoutRom[idx]? <;> rfl
  | lset sw ew mw =>
    refine settle_withOutside h ?_
    rw [withOutside_din0]
    split <;> rfl
  | classify cd ca =>
    refine settle_withOutside h ?_
    rw [withOutside_layoutOr, withOutside_getC]
    cases s.layoutOr with
    | error e => rfl
    | ok l =>
      simp only [putClass_withOutside]
      split <;> rfl
  | encode cd =>
    refine settle_withOutside h ?_
    rw [withOutside_layoutOr, withOutside_tinText]
    cases s.layoutOr with
    | error e => rfl
    | ok l => dsimp only; cases encodeText l s.tinText <;> rfl
  | decode =>
    refine settle_withOutside h ?_
    rw [withOutside_layoutOr, withOutside_tinText, withOutside_prec]
    cases s.layoutOr with
    | error e => rfl
    | ok l => dsimp only; cases decodeText l s.prec.toNat s.tinText <;> rfl

end Outside

theorem exec_keeps_resetLine {i : Instr} {s t : State} (h : exec i s = .next t) : t.resetLine = s.resetLine := by
  obtain ⟨u, hu, rfl⟩ | ⟨e, -, rfl⟩ := exec_cases h
  · cases hu <;> rfl
  · rfl

theorem exec_frees_engine {i : Instr} {s t : State} (h : exec i s = .next t) : t.engine = .idle := by
  obtain ⟨u, -, rfl⟩ | ⟨e, -, rfl⟩ := exec_cases h
  · rfl
  · rfl

/-! ### Runs -/

theorem run_of_step {s t : State} (h : step s = .next t) (n : Nat) : core.run (n + 1) s = core.run n t := by
  simp only [Host.Core.run, core, h]

theorem run_append {s t : State} {m : Nat} (h : core.run m s = .next t) (n : Nat) :
    core.run (m + n) s = core.run n t := by
  induction m generalizing s with
  | zero => cases h; rw [Nat.zero_add]
  | succ m ih =>
    obtain ⟨s', hstep⟩ := everyStepAnswersNext s
    rw [run_of_step hstep] at h
    rw [Nat.add_right_comm, run_of_step hstep, ih h]

/-- A waiting host polls until the command's instant, and changes nothing of the block. -/
theorem polling_reaches_instant {s : State} {w : Word} {rest : List HostEvent} (hbusy : s.engine = .busy w)
    (hr : s.resetLine = false) (hp : s.pending = .poll :: rest) :
    ∃ n o, core.run n s = .next (withOutside s o) ∧ o.wait = 0 ∧ o.pending = .poll :: rest := by
  generalize hwait : s.wait = k
  induction k generalizing s with
  | zero => exact ⟨0, s, rfl, hwait, hp⟩
  | succ k ih =>
    have hpoll := step_of_busy_poll hbusy hr (hwait ▸ k.succ_ne_zero) hp
    obtain ⟨n, o, hrun, hzero, hpending⟩ :=
      ih (s := { s with wait := s.wait - 1, response := some (.data (statusWord s)) }) hbusy hr hp (Nat.sub_eq_of_eq_add hwait)
    exact ⟨n + 1, o, (run_of_step hpoll n).trans hrun, hzero, hpending⟩

/-- Settles O60: the CMD write starts the command, the host polls until the instant, the command is performed beside an outside
it does not see, and the next poll finds the engine idle. -/
theorem waitingHostSeesTheCommandUnderEveryLatency : Obligations.WaitingHostSeesTheCommandUnderEveryLatency := by
  intro s i rest hi hidle hr hp
  obtain ⟨u, hu, -⟩ := failureWritesOnlyStatus i { s with engine := .busy (encode i) }
  have hidle' : u.engine = .idle := exec_frees_engine hu
  have hr' : u.resetLine = false := (exec_keeps_resetLine hu).trans hr
  obtain ⟨t, hstart, -, -, -, hpoll, hblock⟩ := cmdWriteStartsCommand s (encode i) (.poll :: rest) hidle hr hp
  rw [eq_withOutside_of_sameBlock hblock] at hstart
  obtain ⟨n, o, hpolls, hzero, hpending⟩ := polling_reaches_instant
    (s := withOutside { s with engine := .busy (encode i) } t) rfl hr hpoll
  have hcommand := stepPerformsDecodedCommand (withOutside { s with engine := .busy (encode i) } o) (encode i) i rfl hr
    (.inl hzero) (decodeEncodeRoundTrip i hi)
  have hanswer := step_of_idle_poll (s := withOutside u o) hidle' hr' hpending
  rw [exec_withOutside hu] at hcommand
  exact ⟨n + 1 + 2, _, u,
    (run_append ((run_of_step hstart n).trans hpolls) 2).trans ((run_of_step hcommand 1).trans (run_of_step hanswer 0)),
    hu, rfl, rfl, sameBlock_withOutside u o⟩

end Sys2Proof.Proofs
end

section
/-! Words written out from the formats (30_encoding.md section 1). -/

namespace Sys2Proof.Proofs

open Sys2Proof

theorem decode_of_encode {i : Instr} {w : Word} (hi : i.wellFormed = true) (hw : encode i = w) : decode w = .ok i :=
  hw ▸ decodeEncodeRoundTrip i hi

/-- Settles O5: each word is the encoding of its command, whose operands fit their fields. -/
theorem sampleWordsDecode : Obligations.SampleWordsDecode :=
  ⟨decode_of_encode rfl rfl, decode_of_encode rfl rfl, decode_of_encode rfl rfl, decode_of_encode rfl rfl,
    decode_of_encode rfl rfl, decode_of_encode rfl rfl, decode_of_encode rfl rfl, decode_of_encode rfl rfl⟩

end Sys2Proof.Proofs
end

section
/-! The fields of a pattern determine it, and it determines them (41_layout.md section 1). -/

namespace Sys2Proof.Proofs

open Sys2Proof.Machine Sys2Proof.Laws

section Fields

variable {l : Layout} {p : Container}

theorem expf_lt (p : Container) : l.expf p < 2 ^ l.ew := by
  have h : l.expf p < 2 ^ (l.mw + l.ew - l.mw) := bitSum_lt _ _
  rwa [Nat.add_sub_cancel_left] at h

theorem manf_lt (p : Container) : l.manf p < 2 ^ l.mw := bitSum_lt _ _

/-- What stands above the exponent is the sign bit, or nothing when there is no sign field (R203, R205). -/
theorem toNat_sgn (hsw : l.sw = 0 ∨ l.sw = 1) (hp : p.wf) (hsize : p.size = l.width) :
    (decide (l.sw = 1) && l.sgn p).toNat = p.bits / 2 ^ l.mw / 2 ^ l.ew := by
  have hlt : p.bits / 2 ^ l.mw / 2 ^ l.ew < 2 ^ l.sw := by
    rw [Nat.div_div_eq_div_mul, ← pow_add, Nat.div_lt_iff_lt_mul (Nat.two_pow_pos _), ← pow_add]
    have hbits := hp.2
    rwa [hsize, Layout.width, show l.sw + l.ew + l.mw = l.sw + (l.mw + l.ew) by omega] at hbits
  obtain h | h := hsw
  · rw [h, pow_zero, Nat.lt_one_iff] at hlt
    simp [h, hlt]
  · rw [h, pow_one] at hlt
    have htop : l.width - 1 = l.mw + l.ew := by rw [Layout.width]; omega
    simp only [h, Layout.sgn, htop, bit_eq_testBit hp, decide_true, beq_self_eq_true, Bool.true_and, Nat.toNat_testBit]
    rw [pow_add, ← Nat.div_div_eq_div_mul, Nat.mod_eq_of_lt hlt]

theorem pack_fields (hl : l.valid) (hp : p.wf) (hsize : p.size = l.width) :
    l.pack (l.sgn p) (l.expf p) (l.manf p) = p := by
  have hbits : (l.pack (l.sgn p) (l.expf p) (l.manf p)).bits = p.bits := by
    rw [bits_pack _ (expf_lt p) (manf_lt p), toNat_sgn hl.1 hp hsize, expf_eq hp, manf_eq hp, Nat.div_add_mod, Nat.div_add_mod]
  exact congrArg₂ Container.mk ((pack_size hl.1 _ _ _).trans hsize.symm) hbits

end Fields

/-- Settles O24: a pattern is the number its three fields make, and the bits of an assembled pattern are those of its fields. -/
theorem packAndFieldsAreInverse : Obligations.PackAndFieldsAreInverse := fun _ hl =>
  ⟨fun _ => pack_fields hl, fun s e m he hm =>
    ⟨pack_size hl.1 s e m, expf_pack hl s he hm, manf_pack hl s he hm, neg_pack hl s he hm⟩⟩

end Sys2Proof.Proofs
end

section
/-! The length of what DECODE writes (44_decode.md R320): a binary64 value is below 10^309 and a multiple of 2^−1074. -/

namespace Sys2Proof.Proofs

open Sys2Proof Sys2Proof.Machine Sys2Proof.Claims Sys2Proof.Laws

theorem ten_pow_le_digitsValue {d : Byte} (hd : 0x30 < d.toNat) (ds : List Byte) :
    10 ^ ds.length ≤ digitsValue (d :: ds) := by
  have hlead : 1 ≤ d.toNat - 0x30 := Nat.le_sub_of_add_le' hd
  exact (Nat.le_mul_of_pos_left _ hlead).trans (Nat.le_add_right _ _)

/-- A number below 10^k has at most k digits, since no needless '0' leads them (R318). -/
theorem length_decimalText_le_of_lt {n k : Nat} (hk : 0 < k) (hn : n < 10 ^ k) : (decimalText n).length ≤ k := by
  obtain ⟨hdigits, -, hzero, hvalue⟩ := decimalText_spec n
  generalize decimalText n = t at *
  cases t with
  | nil => exact Nat.zero_le k
  | cons d ds =>
    obtain hd | hd := (hdigits d List.mem_cons_self).1.eq_or_lt
    · rw [hzero (congrArg some (BitVec.eq_of_toNat_eq hd.symm))]
      exact hk
    · have hlead := ten_pow_le_digitsValue hd ds
      rw [hvalue] at hlead
      exact (Nat.pow_lt_pow_iff_right (by decide)).1 (hlead.trans_lt hn)

theorem lt_two_pow_of_log2_le {n e : Nat} (h : Nat.log2 n ≤ e) : n < 2 ^ (e + 1) :=
  Nat.lt_log2_self.trans_le (Nat.pow_le_pow_right two_pos (Nat.succ_le_succ h))

theorem two_pow_1025_lt : 2 ^ (1024 + 1) < 10 ^ 309 :=
  calc 2 ^ (1024 + 1) = 4 * (2 ^ 93) ^ 11 := by rw [← pow_mul, show 4 = 2 ^ 2 from rfl, ← pow_add]
    _ < 10 * (10 ^ 28) ^ 11 := Nat.mul_lt_mul'' (by decide) (Nat.pow_lt_pow_left (by decide) (by decide))
    _ = 10 ^ 309 := by rw [← pow_mul, ← pow_succ']

/-- A finite value takes a sign, 309 digits, a point and 1074 decimals at most (R320). -/
theorem length_formatFinite_le_1385 (s : Bool) (p : Nat) {units : Nat} (h : units < 2 ^ (1024 + 1074)) :
    (formatFinite s p units).length ≤ 1385 := by
  have hbinade : roundHalfEven (units * 10 ^ p) (2 ^ 1074) / 10 ^ p < 2 ^ (1024 + 1) :=
    lt_two_pow_of_log2_le (log2_integerPart_le h p)
  have hint := length_decimalText_le_of_lt (by decide) (hbinade.trans two_pow_1025_lt)
  have hfrac := length_fractionText_units_le units 1074 p
  have hsign := length_withSign_le s (decimalText (roundHalfEven (units * 10 ^ p) (2 ^ 1074) / 10 ^ p) ++
    charPoint :: fractionText p (roundHalfEven (units * 10 ^ p) (2 ^ 1074) % 10 ^ p))
  rw [List.length_append, List.length_cons] at hsign
  rw [formatFinite]
  exact hsign.trans (by omega)

theorem length_decodePattern_le_1385 (l : Layout) (prec : Nat) (p : Container) : (decodePattern l prec p).length ≤ 1385 := by
  rw [decodePattern]
  split
  · next t ht => exact (length_classToken_le ht).trans (by decide)
  · cases hv : patternMagnitude l p with
    | finite units => exact length_formatFinite_le_1385 _ _ (mul_finite_lt hv)
    | infinite => exact (length_withSign_le _ _).trans (by decide)

/-- Settles O38: the text that DECODE writes is that of the pattern TIN shows. -/
theorem decodeOutputIsAtMost1385Bytes : Obligations.DecodeOutputIsAtMost1385Bytes := by
  intro s h hv hgood hlen
  obtain ⟨-, -, -, hw, -⟩ := layout_valid_of_inv h hv
  obtain ⟨t, ht, hwrote⟩ := decode_writes hv hlen hgood (showsTin_parseBits (hlen.trans_le hw)) rfl
  exact ⟨t, _, ht, hwrote, length_decodePattern_le_1385 _ _ _⟩

end Sys2Proof.Proofs
end

section
/-! What of the state a command's effects depend on (70_reset_and_hazards.md section 4). -/

namespace Sys2Proof.Proofs

open Sys2Proof Sys2Proof.Machine Sys2Proof.Claims Sys2Proof.Laws

/-- The operands of `s` beside everything else of `o`. -/
def withOperands (s o : State) : State :=
  { o with regs := s.regs, lr := s.lr, tin := s.tin, tinLen := s.tinLen, din0 := s.din0, din1 := s.din1, din2 := s.din2,
           din3 := s.din3, prec := s.prec }

theorem eq_withOperands {s s' : State} (h : SameOperands s s') : s' = withOperands s s' := by
  cases s; cases s'
  simpa [SameOperands, withOperands, eq_comm] using h

section Operands

variable (s o : State)

@[simp] theorem withOperands_layoutOr : (withOperands s o).layoutOr = s.layoutOr := rfl
@[simp] theorem withOperands_tinText : (withOperands s o).tinText = s.tinText := rfl
@[simp] theorem withOperands_prec : (withOperands s o).prec = s.prec := rfl
@[simp] theorem withOperands_din0 : (withOperands s o).din0 = s.din0 := rfl

end Operands

/-- From `s` to `t` the same is written as from `s'` to `t'`: the registers and the layout end alike, and TOUT and the fields of
RESULT are each written alike or in neither. -/
def WritesAlike (s t s' t' : State) : Prop :=
  t.regs = t'.regs ∧ t.lr = t'.lr ∧
  WrittenAlike (s.tout, s.toutLen) (t.tout, t.toutLen) (s'.tout, s'.toutLen) (t'.tout, t'.toutLen) ∧
  WrittenAlike s.resultBool t.resultBool s'.resultBool t'.resultBool ∧
  WrittenAlike s.resultClass t.resultClass s'.resultClass t'.resultClass

section Writes

variable {s t s' t' : State}

theorem writesAlike_withOperands (s o : State) : WritesAlike s s (withOperands s o) (withOperands s o) :=
  ⟨rfl, rfl, .inr ⟨rfl, rfl⟩, .inr ⟨rfl, rfl⟩, .inr ⟨rfl, rfl⟩⟩

variable (h : WritesAlike s t s' t')
include h

theorem WritesAlike.setC (cd : CReg) (v : Container) : WritesAlike s (t.setC cd v) s' (t'.setC cd v) := by
  obtain ⟨hregs, hrest⟩ := h
  exact ⟨congrArg (·.set cd v) hregs, hrest⟩

theorem WritesAlike.setBool (b : Bool) : WritesAlike s (t.setBool b) s' (t'.setBool b) := by
  obtain ⟨hregs, hlr, htout, -, hclass⟩ := h
  exact ⟨hregs, hlr, htout, .inl rfl, hclass⟩

theorem WritesAlike.setClass (k : ClassCode) : WritesAlike s (t.setClass k) s' (t'.setClass k) := by
  obtain ⟨hregs, hlr, htout, hbool, -⟩ := h
  exact ⟨hregs, hlr, htout, hbool, .inl rfl⟩

theorem WritesAlike.putTout (x : List Byte) : WritesAlike s (t.putTout x) s' (t'.putTout x) := by
  obtain ⟨hregs, hlr, -, hresult⟩ := h
  exact ⟨hregs, hlr, .inl rfl, hresult⟩

theorem WritesAlike.setLayout (r : LayoutReg) : WritesAlike s { t with lr := r } s' { t' with lr := r } := by
  obtain ⟨hregs, -, hrest⟩ := h
  exact ⟨hregs, rfl, hrest⟩

theorem WritesAlike.putClass (l : Layout) (cd : CReg) (p : Container) :
    WritesAlike s (putClass t l cd p) s' (putClass t' l cd p) := by
  unfold Machine.putClass
  split
  · exact (h.setClass _).setC _ _
  · exact h.setClass _

end Writes

/-- Two results of a command: the same error, or writes that are alike. -/
inductive ResultsAlike (s s' : State) : Except ErrorCode State → Except ErrorCode State → Prop where
  | ok {u u' : State} (h : WritesAlike s u s' u') : ResultsAlike s s' (.ok u) (.ok u')
  | error (e : ErrorCode) : ResultsAlike s s' (.error e) (.error e)

/-- Two runs of a command end with the same error code and with writes that are alike. -/
def OutcomesAlike (s s' : State) (a a' : Host.Outcome State Fault Refusal) : Prop :=
  ∃ t t', a = .next t ∧ a' = .next t' ∧ t.err = t'.err ∧ WritesAlike s t s' t'

section Results

variable {s s' u u' : State}

theorem ResultsAlike.check {p : Prop} [Decidable p] (e : ErrorCode) {r r' : Except ErrorCode State}
    (h : ResultsAlike s s' r r') : ResultsAlike s s' (if p then .error e else r) (if p then .error e else r') := by
  split
  · exact .error e
  · exact h

theorem sizedWrite_alike (h : WritesAlike s u s' u') (cd : CReg) (n : Nat) (v : Container) :
    ResultsAlike s s' (sizedWrite u cd n v) (sizedWrite u' cd n v) :=
  .check .capacity (.ok (h.setC cd v))

theorem ranged_alike (h : WritesAlike s u s' u') (lo hi : Nat) : ResultsAlike s s' (ranged lo hi u) (ranged lo hi u') :=
  .check .capacity (.check .range (.ok h))

end Results

section Exec

variable {s o : State}

theorem settle_alike {r r' : Except ErrorCode State} (h : ResultsAlike s (withOperands s o) r r') :
    OutcomesAlike s (withOperands s o) (settle s r) (settle (withOperands s o) r') := by
  cases h with
  | ok h => exact ⟨_, _, rfl, rfl, rfl, h⟩
  | error e => exact ⟨_, _, rfl, rfl, rfl, writesAlike_withOperands s o⟩

variable (s o)

theorem lsel_alike (idx : Nat) :
    OutcomesAlike s (withOperands s o) (exec (.lsel idx) s) (exec (.lsel idx) (withOperands s o)) := by
  cases hrom : layoutRom[idx]? with
  | none => rw [exec_lsel_of_none hrom, exec_lsel_of_none hrom]; exact settle_alike (.error _)
  | some l =>
    rw [exec_lsel_of_some hrom, exec_lsel_of_some hrom]
    exact settle_alike (.ok ((writesAlike_withOperands s o).setLayout _))

theorem lset_alike (sw : Bool) (ew mw : Nat) :
    OutcomesAlike s (withOperands s o) (exec (.lset sw ew mw) s) (exec (.lset sw ew mw) (withOperands s o)) := by
  refine settle_alike ?_
  rw [withOperands_din0]
  split
  · exact .ok ((writesAlike_withOperands s o).setLayout _)
  · exact .error _

theorem constructTo_alike (cd : CReg) (v : SpecialValue) :
    ResultsAlike s (withOperands s o) (constructTo s cd v) (constructTo (withOperands s o) cd v) := by
  rw [constructTo, constructTo, withOperands_layoutOr]
  cases s.layoutOr with
  | error e => exact .error e
  | ok l => exact .ok ((writesAlike_withOperands s o).setC _ _)

theorem classify_alike (cd ca : CReg) :
    OutcomesAlike s (withOperands s o) (exec (.classify cd ca) s) (exec (.classify cd ca) (withOperands s o)) := by
  refine settle_alike ?_
  rw [withOperands_layoutOr]
  cases s.layoutOr with
  | error e => exact .error e
  | ok l => exact .check _ (.ok ((writesAlike_withOperands s o).putClass l cd _))

theorem encode_alike (cd : CReg) :
    OutcomesAlike s (withOperands s o) (exec (.encode cd) s) (exec (.encode cd) (withOperands s o)) := by
  refine settle_alike ?_
  rw [withOperands_layoutOr, withOperands_tinText]
  cases s.layoutOr with
  | error e => exact .error e
  | ok l =>
    dsimp only
    cases encodeText l s.tinText with
    | error e => exact .error e
    | ok p => exact .ok (((writesAlike_withOperands s o).setC cd p).putTout _)

theorem decode_alike : OutcomesAlike s (withOperands s o) (exec .decode s) (exec .decode (withOperands s o)) := by
  refine settle_alike ?_
  rw [withOperands_layoutOr, withOperands_tinText, withOperands_prec]
  cases s.layoutOr with
  | error e => exact .error e
  | ok l =>
    dsimp only
    cases decodeText l s.prec.toNat s.tinText with
    | error e => exact .error e
    | ok x => exact .ok ((writesAlike_withOperands s o).putTout x)

/-- A command's effects are those of its operands, whatever stands beside them. -/
theorem exec_alike (i : Instr) : OutcomesAlike s (withOperands s o) (exec i s) (exec i (withOperands s o)) := by
  have hstart := writesAlike_withOperands s o
  cases i with
  | all0 | all1 | fromu8 | fromu16 | fromu32 | fromu64 | fromu128 | concat | resizeLo | resizeHi =>
    exact settle_alike (sizedWrite_alike hstart _ _ _)
  | get => exact settle_alike (.ok (hstart.setBool _))
  | set => exact settle_alike (.check _ (.ok (hstart.setC _ _)))
  | getsub => exact settle_alike (ranged_alike (hstart.setC _ _) _ _)
  | range0 | range1 => exact settle_alike (ranged_alike (hstart.setBool _) _ _)
  | parse => exact settle_alike (.check _ (.check _ (.ok (hstart.setC _ _))))
  | parseN => exact settle_alike (.check _ (.check _ (.check _ (.ok (hstart.setC _ _)))))
  | render => exact settle_alike (.ok (hstart.putTout _))
  | lsel idx => exact lsel_alike s o idx
  | lset sw ew mw => exact lset_alike s o sw ew mw
  | constructZero | constructInf | constructNan | constructSpsub | constructLsub | constructSpnorm | constructLnorm
  | constructLlt1 | constructOne | constructSgt1 =>
    exact settle_alike (constructTo_alike s o _ _)
  | classify cd ca => exact classify_alike s o cd ca
  | encode cd => exact encode_alike s o cd
  | decode => exact decode_alike s o

end Exec

/-- Settles O44: the second state is the operands of the first beside other flags, another output and another host. -/
theorem commandEffectsDependOnOperandsOnly : Obligations.CommandEffectsDependOnOperandsOnly := by
  intro i s s' h
  rw [eq_withOperands h]
  exact exec_alike s s' i

end Sys2Proof.Proofs
end

section
/-! The reset input (70_reset_and_hazards.md section 1) and the return to `Idle` (section 2). -/

namespace Sys2Proof.Proofs

open Sys2Proof Sys2Proof.Machine Sys2Proof.Claims Sys2Proof.Laws

/-! ### The reset input -/

section Reset

variable {s : State} (hr : s.resetLine = true)
include hr

/-- While reset is asserted the outside alone acts. -/
theorem step_of_reset {e : HostEvent} {rest : List HostEvent} (hp : s.pending = e :: rest) :
    step s = .next (performEvent e { s with pending := rest }) := by
  simp only [step, machineStep, hr, hostStep, hp, if_true]

theorem hostRead_of_reset {off : BitVec 14} (hoff : off.toNat % 4 = 0) : hostRead s off 4 = s.respond (.data 0) := by
  rw [hostRead, if_neg (not_not.2 (legalAccess_of_aligned hoff)), if_pos hr]

theorem hostWrite_of_reset {off : BitVec 14} (v : Word) (hoff : off.toNat % 4 = 0) : hostWrite s off 4 v = s.respond .done := by
  rw [hostWrite, if_neg (not_not.2 (legalAccess_of_aligned hoff)), if_pos hr]

theorem releaseReset_of_reset : performEvent .releaseReset s = s.resetTo false := if_pos hr

end Reset

/-- Asserting reset is an event of the outside, which an engine that is not at its instant lets pass (R381). -/
theorem step_assertReset {s : State} {rest : List HostEvent} (hr : s.resetLine = false)
    (hwait : ∀ w, s.engine = .busy w → s.wait ≠ 0) (hp : s.pending = .assertReset :: rest) :
    step s = .next { State.reset with resetLine := true, pending := rest, draws := s.draws } := by
  cases hengine : s.engine with
  | idle => exact step_of_idle hengine hr hp
  | busy w => exact step_before_instant hengine hr (hwait w hengine) hp

/-- Settles O49: each step is the event named, and `resetTo` keeps the outside's future and the counter alone. -/
theorem resetInputRestoresResetState : Obligations.ResetInputRestoresResetState := by
  refine fun s rest => ⟨step_assertReset, fun hr hp => ?_, fun off hr hoff hp => ?_, fun off v hr hoff hp => ?_⟩
  · rw [step_of_reset hr hp, releaseReset_of_reset (s := { s with pending := rest }) hr]
    rfl
  · rw [step_of_reset hr hp, performEvent, hostRead_of_reset (s := { s with pending := rest }) hr hoff]
    rfl
  · rw [step_of_reset hr hp, performEvent, hostWrite_of_reset (s := { s with pending := rest }) hr v hoff]
    rfl

/-! ### The return to `Idle` -/

/-- The engine goes on as it was: the same control state with the same latency left, and reset not moved. -/
def SameEngine (s t : State) : Prop := t.engine = s.engine ∧ t.wait = s.wait ∧ t.resetLine = s.resetLine

theorem sameEngine_hostRead (s : State) (off : BitVec 14) (bytes : Nat) : SameEngine s (hostRead s off bytes) := by
  rw [hostRead]
  split_ifs <;> exact ⟨rfl, rfl, rfl⟩

theorem sameEngine_hostPoll (s : State) : SameEngine s (hostPoll s) := by
  rw [hostPoll]
  split_ifs <;> exact ⟨rfl, rfl, rfl⟩

/-- Only a write of CMD starts the engine (R44). -/
theorem sameEngine_writeReg (s : State) {r : WindowReg} (hr : r ≠ .cmd) (v : Word) : SameEngine s (writeReg s r v) := by
  cases r with
  | cmd => exact absurd rfl hr
  | _ => exact ⟨rfl, rfl, rfl⟩

/-- A write of CMD is dropped while the engine is busy (R385). -/
theorem sameEngine_hostWrite {s : State} (hbusy : s.isBusy = true) (off : BitVec 14) (bytes : Nat) (v : Word) :
    SameEngine s (hostWrite s off bytes v) := by
  rw [hostWrite]
  split_ifs with hlegal hreset hdropped
  · exact ⟨rfl, rfl, rfl⟩
  · exact ⟨rfl, rfl, rfl⟩
  · have hcmd : windowRegAt off.toNat ≠ .cmd := fun h => hdropped (by rw [hbusy, h]; rfl)
    exact sameEngine_writeReg s hcmd v
  · exact ⟨rfl, rfl, rfl⟩

/-- An event beside a busy engine leaves it as it is, but for the reset input, which frees it (R381, R385). -/
theorem performEvent_of_busy {s : State} (hbusy : s.isBusy = true) (hr : s.resetLine = false) (e : HostEvent) :
    (performEvent e s).engine = .idle ∨ SameEngine s (performEvent e s) := by
  cases e with
  | read off bytes => exact .inr (sameEngine_hostRead s off bytes)
  | write off bytes v => exact .inr (sameEngine_hostWrite hbusy off bytes v)
  | poll => exact .inr (sameEngine_hostPoll s)
  | assertReset => exact .inl rfl
  | releaseReset =>
    rw [performEvent, if_neg (Bool.eq_false_iff.1 hr)]
    exact .inr ⟨rfl, rfl, rfl⟩

theorem runCommand_frees_engine {w : Word} {s t : State} (h : runCommand w s = .next t) : t.engine = .idle := by
  rw [runCommand] at h
  split at h
  · exact exec_frees_engine h
  · cases h; rfl

/-- At its instant a busy engine is one step from `Idle`. -/
theorem step_frees_engine {s : State} {w : Word} (hbusy : s.engine = .busy w) (hr : s.resetLine = false)
    (hinstant : s.wait = 0 ∨ s.pending = []) : ∃ t, core.run 1 s = .next t ∧ t.engine = .idle := by
  obtain ⟨t, ht⟩ := runCommand_answers_next w s
  exact ⟨t, run_of_step ((step_at_instant hbusy hr hinstant).trans ht) 0, runCommand_frees_engine ht⟩

/-- Settles O59, by induction on the latency left: each event before the instant takes one off it, or frees the engine. -/
theorem busyEngineFinishes : Obligations.BusyEngineFinishes := by
  intro s w hbusy hr
  generalize hwait : s.wait = k
  induction k generalizing s with
  | zero =>
    obtain ⟨t, hrun, hidle⟩ := step_frees_engine hbusy hr (.inl hwait)
    exact ⟨1, t, le_rfl, hrun, hidle⟩
  | succ k ih =>
    cases hp : s.pending with
    | nil =>
      obtain ⟨t, hrun, hidle⟩ := step_frees_engine hbusy hr (.inr hp)
      exact ⟨1, t, Nat.succ_le_succ (Nat.zero_le _), hrun, hidle⟩
    | cons e rest =>
      have hstep := step_before_instant hbusy hr (hwait ▸ k.succ_ne_zero) hp
      obtain hidle | ⟨hengine, hleft, hline⟩ :=
        performEvent_of_busy (s := { s with pending := rest, wait := s.wait - 1 }) (isBusy_of_busy hbusy) hr e
      · exact ⟨1, _, Nat.succ_le_succ (Nat.zero_le _), run_of_step hstep 0, hidle⟩
      · obtain ⟨n, t, hn, hrun, hidle⟩ :=
          ih _ (hengine.trans hbusy) (hline.trans hr) (hleft.trans (Nat.sub_eq_of_eq_add hwait))
        exact ⟨n + 1, t, Nat.succ_le_succ hn, (run_of_step hstep n).trans hrun, hidle⟩

end Sys2Proof.Proofs
end
